-- ==== Sys2Proof/Word.lean ====
section
/-! DEFINITION. The data types of AES-CORE: bytes, 32-bit words, 16-byte blocks (spec/00_scope.md R6, R10, R12). -/

namespace Sys2Proof

/-- One byte: an element of GF(2^8), bit `k` the coefficient of `x^k` (R12). -/
abbrev Byte := BitVec 8

/-- A scalar register or a command word: 32 bits, unsigned (R10). -/
abbrev Word := BitVec 32

/-- "exactly 16 bytes (128 bits)", byte index `i` at row `i % 4`, column `i / 4` (R6, R14). -/
abbrev Block := Vector Byte 16

end Sys2Proof
end

