-- ==== Sys2Proof/Syntax.lean ====
section
/-! DEFINITION. The commands of AES-CORE, one constructor per row of spec/opcode_table.json (30_encoding.md R72). -/

namespace Sys2Proof

/-- A command. Formats N and Z take no operand or a flag; formats R and B take the 8-bit ARG as a number, zero-extended
(R74), so an operand of 256 or more is a term that no command word stands for (WellFormed refuses it). -/
inductive Instr where
  | keyexp
  | subbytes
  | invsubbytes
  | shiftrows
  | invshiftrows
  | mixcolumns
  | invmixcolumns
  /-- round index `r` (format R). -/
  | addrk (r : Nat)
  | encblk
  | decblk
  /-- PKCS#7 block size `bs` (format B). -/
  | pad (bs : Nat)
  | unpad
  | ecbenc
  | ecbdec
  /-- ZIV flag `z`: `true` uses the all-zero IV, `false` the register IV (format Z). -/
  | cbcenc (z : Bool)
  | cbcdec (z : Bool)
  deriving DecidableEq, Repr

end Sys2Proof
end

