-- ==== Sys2Proof/WellFormed.lean ====
section
/-! DEFINITION. Which terms of Instr a command word can encode (30_encoding.md R71). -/

namespace Sys2Proof

/-- Formats R and B encode operands 0 to 255; the other formats encode every term (R71). `pad 0` and `addrk r` with
`r` above STATUS.NR are well formed: they decode, and fault at execution (R75). -/
def Instr.wf : Instr → Bool
  | .addrk r => decide (r < 256)
  | .pad bs => decide (bs < 256)
  | .keyexp | .subbytes | .invsubbytes | .shiftrows | .invshiftrows | .mixcolumns | .invmixcolumns => true
  | .encblk | .decblk | .unpad | .ecbenc | .ecbdec | .cbcenc _ | .cbcdec _ => true

end Sys2Proof
end

