-- ==== Sys2Proof/Decode.lean ====
section
/-! DEFINITION. The decoder, total on 32-bit words and rejecting by name (30_encoding.md R70 to R76), and after it the
encoder (R77), written from the same opcode map. -/

namespace Sys2Proof

/-- Why a word decodes to ILLEGAL (R75). -/
inductive Illegal where
  /-- RSV, bits 31:16, is not 0. -/
  | reservedBits
  /-- OP is not one of the sixteen values of R72. -/
  | unlistedOpcode
  /-- a format N word with ARG != 0. -/
  | argNotZero
  /-- a format Z word with ARG bits 7:1 != 0. -/
  | zivArgBits
  deriving DecidableEq, Repr

/-- The fields of a command word (R70). -/
def opField (w : Word) : Byte := w.extractLsb' 0 8
def argField (w : Word) : Byte := w.extractLsb' 8 8
def rsvField (w : Word) : BitVec 16 := w.extractLsb' 16 16

/-- Format N: no operand, ARG must be 0 (R71). -/
def decodeN (i : Instr) (a : Byte) : Except Illegal Instr :=
  if a = 0#8 then .ok i else .error .argNotZero

/-- Format Z: ARG bits 7:1 must be 0, bit 0 is the ZIV flag (R71, R74). -/
def decodeZ (f : Bool → Instr) (a : Byte) : Except Illegal Instr :=
  if a.extractLsb' 1 7 = 0#7 then .ok (f (a.getLsbD 0)) else .error .zivArgBits

/-- Selection by OP, once RSV is known to be 0 (R72, R73). -/
def decodeOp (op a : Byte) : Except Illegal Instr :=
  if op = 0x01#8 then decodeN .keyexp a
  else if op = 0x10#8 then decodeN .subbytes a
  else if op = 0x11#8 then decodeN .invsubbytes a
  else if op = 0x12#8 then decodeN .shiftrows a
  else if op = 0x13#8 then decodeN .invshiftrows a
  else if op = 0x14#8 then decodeN .mixcolumns a
  else if op = 0x15#8 then decodeN .invmixcolumns a
  else if op = 0x16#8 then .ok (.addrk a.toNat)
  else if op = 0x20#8 then decodeN .encblk a
  else if op = 0x21#8 then decodeN .decblk a
  else if op = 0x30#8 then .ok (.pad a.toNat)
  else if op = 0x31#8 then decodeN .unpad a
  else if op = 0x40#8 then decodeN .ecbenc a
  else if op = 0x41#8 then decodeN .ecbdec a
  else if op = 0x42#8 then decodeZ .cbcenc a
  else if op = 0x43#8 then decodeZ .cbcdec a
  else .error .unlistedOpcode

/-- `decode(w)` of R73, with the name of the rejection. -/
def decodeNamed (w : Word) : Except Illegal Instr :=
  if rsvField w ≠ 0#16 then .error .reservedBits else decodeOp (opField w) (argField w)

/-- `decode(w)` of R73: `none` is ILLEGAL. -/
def decode (w : Word) : Option Instr := (decodeNamed w).toOption

/-- A command word given as a number in the table's bit numbering; one command is exactly one 32-bit word (R76). -/
def decodeTableWord (nbits w : Nat) : Option Instr :=
  if nbits ≤ 32 ∧ w < 2 ^ nbits then decode (BitVec.ofNat 32 w) else none

/-- The opcode map (R72). -/
def opcode : Instr → Byte
  | .keyexp => 0x01#8
  | .subbytes => 0x10#8
  | .invsubbytes => 0x11#8
  | .shiftrows => 0x12#8
  | .invshiftrows => 0x13#8
  | .mixcolumns => 0x14#8
  | .invmixcolumns => 0x15#8
  | .addrk _ => 0x16#8
  | .encblk => 0x20#8
  | .decblk => 0x21#8
  | .pad _ => 0x30#8
  | .unpad => 0x31#8
  | .ecbenc => 0x40#8
  | .ecbdec => 0x41#8
  | .cbcenc _ => 0x42#8
  | .cbcdec _ => 0x43#8

/-- ARG of a command (R71, R74): the operand of formats R and B, the ZIV flag of format Z, 0 in format N. -/
def argument : Instr → Byte
  | .addrk r => BitVec.ofNat 8 r
  | .pad bs => BitVec.ofNat 8 bs
  | .cbcenc z | .cbcdec z => if z then 1#8 else 0#8
  | .keyexp | .subbytes | .invsubbytes | .shiftrows | .invshiftrows | .mixcolumns | .invmixcolumns => 0#8
  | .encblk | .decblk | .unpad | .ecbenc | .ecbdec => 0#8

/-- "The assembler encodes a command as `w = (ARG << 8) | OP`" (R77). -/
def encode (i : Instr) : Word := ((argument i).setWidth 32 <<< 8) ||| (opcode i).setWidth 32

end Sys2Proof
end

