-- ==== Sys2Proof/Config.lean ====
section
/-! DEFINITION. What is fixed for the machine (identity, block size, the legal range of BUF_BYTES, the three key
configurations) and the ONE free value of the model: what a byte that no rule fixes holds. -/

namespace Sys2Proof

/-- The arrays the host addresses by name and byte index (20_memory.md R52, R53). -/
inductive ByteArr where
  | key | iv | state | rk | inBuf | outBuf
  deriving DecidableEq, Repr

/-- One configuration record `{key_bytes, Nk, Nr}` (00_scope.md R7). -/
structure KeyConfig where
  keyBytes : Nat
  nk : Nat
  nr : Nat
  deriving DecidableEq, Repr

/-- The identity string of the core (R1). -/
def Config.identity : String := "AES-CORE/cryptopals-v7"

/-- BLOCK_BYTES = 16 (R6). -/
def Config.blockBytes : Nat := 16

/-- AES-128, AES-192 and AES-256: the closed set of configuration records (R7). -/
def Config.aes128 : KeyConfig := ⟨16, 4, 10⟩
def Config.aes192 : KeyConfig := ⟨24, 6, 12⟩
def Config.aes256 : KeyConfig := ⟨32, 8, 14⟩

/-- The smallest and the largest legal BUF_BYTES (R8). -/
def Config.minBufBytes : Nat := 16
def Config.maxBufBytes : Nat := 4294967295

/-- The capacity State.reset gives IN and OUT (DESIGN CHOICE, log entry 1: R8 leaves BUF_BYTES a parameter; the model
carries it in the state, and no step changes it). -/
def Config.resetBufBytes : Nat := Config.maxBufBytes

/-- FREE VALUE (log entry 6): what byte `i` of array `a` holds while no rule fixes it; `n` counts how often the bytes of
`a` have become unspecified (reset; KEYEXP for RK's tail; a buffer command for OUT's tail). It has no body, so nothing
can be proved of its value: R42's "some value on the hardware that no rule fixes", 93_implementation_defined.md U1, U3, U4. -/
opaque Config.unspecifiedByte (a : ByteArr) (i n : Nat) : Byte

end Sys2Proof
end

