-- ==== Sys2Proof/Machine/State.lean ====
section
/-! DEFINITION. The machine state (10_state.md R20 to R42, 20_memory.md R51), the host operations (20_memory.md R53), the
reasons a step can stop, and the state after reset (10_state.md R41, 70_reset_and_hazards.md R250). -/

namespace Sys2Proof.Machine

/-- A sparse byte buffer: (address, byte) pairs, addresses strictly rising. An address that is not listed is UNWRITTEN
(R42): it has no value of its own. -/
abbrev Memory := List Host.Cell

/-- The scalar registers of R21, by name. CMD has no storage: a write runs a command, a read returns 0 (R37). -/
inductive ScalarReg where
  | keylen | ctrl | status | errcmd | inlen | outlen | cmd
  deriving DecidableEq, Repr

/-- The host operations, "exactly these" (20_memory.md R53). -/
inductive HostOp where
  | reset
  | writeReg (r : ScalarReg) (v : Word)
  | readReg (r : ScalarReg)
  | writeByte (a : ByteArr) (i : Nat) (b : Byte)
  | readByte (a : ByteArr) (i : Nat)
  deriving DecidableEq, Repr

/-- How often the bytes of an array have become unspecified: `all` by reset (KEY, STATE, IN), `rk` by reset or KEYEXP
(RK's tail), `out` by reset or a buffer command (OUT's tail). The counters pick the free value of an unwritten byte
(log entry 6); they are the model's own. -/
structure Draws where
  all : Nat
  rk : Nat
  out : Nat
  deriving DecidableEq, Repr

/-- The machine state. The first group is the tuple of R20; the constant tables of R38 are ROM and stand in
Machine/GfTables.lean. CMD holds nothing (R37), and W, PREV, k and temp do not survive a command (R39). -/
structure State where
  /-- KEY[0..32) (R24). -/
  key : Vector Byte 32
  /-- KEYLEN, 8 bits (R25). -/
  keylen : BitVec 8
  /-- IV[0..16) (R26). -/
  iv : Block
  /-- STATE[0..16), the cipher state (R27). -/
  state : Block
  /-- RK[0..240), the round-key schedule (R28). -/
  rk : Vector Byte 240
  /-- CTRL (R29). -/
  ctrl : Word
  /-- STATUS (R30). -/
  status : Word
  /-- ERRCMD (R34). -/
  errcmd : Word
  /-- INLEN (R35). -/
  inlen : Word
  /-- OUTLEN (R36). -/
  outlen : Word
  /-- IN[0..BUF_BYTES) (20_memory.md R51). -/
  inBuf : Memory
  /-- OUT[0..BUF_BYTES) (20_memory.md R51). -/
  outBuf : Memory
  /-- BUF_BYTES, the capacity parameter (00_scope.md R8); no step changes it (log entry 1). -/
  bufBytes : Nat
  /-- Which bytes of KEY, STATE and RK are written (R42). RK is written by KEYEXP alone, from index 0 up, so one length
  says it. IV is written from reset; the unlisted bytes of IN and OUT are the unwritten ones. -/
  keyWritten : Vector Bool 32
  stateWritten : Vector Bool 16
  rkWritten : Nat
  /-- The host operations still to come, oldest first: the "program" of R23 (log entry 7). -/
  hostOps : List HostOp
  /-- What the last operation returned to the host: the value of a ReadReg or ReadByte, zero-extended (R53, log entry 8). -/
  reply : Option Word
  /-- A command has read a KEY, STATE or RK byte that was unwritten (R42's UnwrittenRead, recorded: log entry 4). -/
  unwrittenRead : Bool
  /-- The free-value counters (log entry 6). -/
  draws : Draws
  deriving DecidableEq, Repr

/-- Why a step stops the machine. The ten error codes of 60_exceptions.md R220 are NOT here: they are architectural, and
raising one is a next state with the fault record written (R231). -/
inductive Fault where
  /-- Raised by PAD, UNPAD, ECBENC, ECBDEC, CBCENC and CBCDEC when a byte of IN[0..INLEN) was never written: the model
  fault UnwrittenRead of 10_state.md R42; `addr` is the first such address. Safe: the hardware goes on with some value. -/
  | unwrittenRead (addr : Nat)
  /-- Raised by the commands of the checked machine (Machine/Checked.lean) alone, when byte `i` of KEY, STATE or RK is an
  operand and was never written: the same model fault of R42. Step records it and goes on (log entry 4). Safe. -/
  | unwrittenRegister (a : ByteArr) (i : Nat)
  deriving DecidableEq, Repr

/-- Why there is no step. -/
inductive Refusal where
  /-- Raised by exec's arm for a command that has no meaning yet (none is left). Safe. -/
  | notModelled (mnemonic : String)
  /-- Raised by a host byte access whose index is outside the array: "not an operation of the host interface ... a
  model has no step for it" (20_memory.md R54, 70_reset_and_hazards.md R266). Safe. -/
  | hostIndexOutOfRange (a : ByteArr) (i : Nat)
  deriving DecidableEq, Repr

/-- What a step, or the meaning of a command, answers. -/
abbrev Result := Host.Outcome State Fault Refusal

/-- The state after power-on (R41, R250), nothing placed for the host to do. KEY, STATE and RK are unspecified: the
model holds zero bytes there and marks every one unwritten, so that no reader sees the zeros (log entries 2 and 3). -/
def State.reset : State where
  key := Vector.replicate 32 0#8
  keylen := 0#8
  iv := Vector.replicate 16 0#8
  state := Vector.replicate 16 0#8
  rk := Vector.replicate 240 0#8
  ctrl := 0#32
  status := 0#32
  errcmd := 0#32
  inlen := 0#32
  outlen := 0#32
  inBuf := []
  outBuf := []
  bufBytes := Config.resetBufBytes
  keyWritten := Vector.replicate 32 false
  stateWritten := Vector.replicate 16 false
  rkWritten := 0
  hostOps := []
  reply := none
  unwrittenRead := false
  draws := ⟨0, 0, 0⟩

end Sys2Proof.Machine
end

