-- ==== Sys2Proof/Machine/Flags.lean ====
section
/-! DEFINITION. The fields of STATUS and CTRL (10_state.md R29 to R33), the ten error codes (60_exceptions.md R220), and
every write of a STATUS field: by KEYEXP, by a fault, by a host write to KEY or KEYLEN (R40). -/

namespace Sys2Proof.Machine

/-- The error codes 1 to 10 (R220). INVALID_BLOCK_LENGTH is defined and never raised (R222). -/
inductive ErrCode where
  | invalidKeyLength
  | invalidBlockLength
  | partialFinalBlock
  | paddingInvalid
  | illegalCommand
  | noKeySchedule
  | roundIndexRange
  | capacityExceeded
  | emptyInput
  | invalidBlockSize
  deriving DecidableEq, Repr

/-- `code(E)` (R220). -/
def ErrCode.code : ErrCode → Nat
  | .invalidKeyLength => 1
  | .invalidBlockLength => 2
  | .partialFinalBlock => 3
  | .paddingInvalid => 4
  | .illegalCommand => 5
  | .noKeySchedule => 6
  | .roundIndexRange => 7
  | .capacityExceeded => 8
  | .emptyInput => 9
  | .invalidBlockSize => 10

/-- The bits `lo + width - 1` down to `lo` of a register, as a number. -/
def getField (lo width : Nat) (w : Word) : Nat := (w.extractLsb' lo width).toNat

/-- The word whose bits `lo + width - 1` down to `lo` are all 1. -/
def fieldMask (lo width : Nat) : Word := BitVec.ofNat 32 ((2 ^ width - 1) * 2 ^ lo)

/-- `w` with that field replaced by `v`. -/
def setField (lo width v : Nat) (w : Word) : Word :=
  (w &&& ~~~ fieldMask lo width) ||| (BitVec.ofNat 32 (v * 2 ^ lo) &&& fieldMask lo width)

/-- STATUS.FAULTED, bit 0. -/
def State.faulted (s : State) : Bool := s.status.getLsbD 0
/-- STATUS.KEY_VALID, bit 1. -/
def State.keyValid (s : State) : Bool := s.status.getLsbD 1
/-- STATUS.NK, bits 7:4. -/
def State.nk (s : State) : Nat := getField 4 4 s.status
/-- STATUS.NR, bits 11:8. -/
def State.nr (s : State) : Nat := getField 8 4 s.status
/-- STATUS.ERR, bits 23:16. -/
def State.err (s : State) : Nat := getField 16 8 s.status
/-- CTRL.STRICT_PAD, bit 0. -/
def State.strictPad (s : State) : Bool := s.ctrl.getLsbD 0

/-- `STATUS.FAULTED <- 1; STATUS.ERR <- code(E)` (R231). -/
def statusOnFault (e : ErrCode) (st : Word) : Word := setField 0 1 1 (setField 16 8 e.code st)

/-- `STATUS.NK <- cfg.Nk; STATUS.NR <- cfg.Nr; STATUS.KEY_VALID <- 1` (42_key_schedule.md R142). -/
def statusOnKeyexp (cfg : KeyConfig) (st : Word) : Word :=
  setField 4 4 cfg.nk (setField 8 4 cfg.nr (setField 1 1 1 st))

/-- A host write to KEY or KEYLEN clears KEY_VALID and keeps NK and NR (R24, R25, R31). -/
def statusOnKeyWrite (st : Word) : Word := setField 1 1 0 st

/-- What a host write leaves in CTRL: bit 0; bits 31:1 read 0 and ignore writes (R29). -/
def ctrlOnWrite (v : Word) : Word := v &&& fieldMask 0 1

end Sys2Proof.Machine
end

