-- ==== Sys2Proof/Machine/Ops.lean ====
section
/-! DEFINITION. The named operations over registers and buffers: byte arrays, the sparse buffers IN and OUT, the read of
one byte as every reader sees it, the record of UnwrittenRead, fault entry (60_exceptions.md R231) and reset, the only way
out of a fault (R234). -/

namespace Sys2Proof.Machine

/-! ### Blocks and byte arrays -/

/-- Byte `i` of a register array; 0 beyond its end, where no rule reads. -/
def byteAt {n : Nat} (v : Vector Byte n) (i : Nat) : Byte := (v[i]?).getD 0#8

/-- Whether byte `i` of a register array is marked written. -/
def flagAt {n : Nat} (v : Vector Bool n) (i : Nat) : Bool := (v[i]?).getD false

/-- The register array whose byte `i` is `f i`. -/
def buildBytes (n : Nat) (f : Nat → Byte) : Vector Byte n := Vector.ofFn fun i => f i.val

/-- The block whose byte `i` is `f i`. -/
def blockBuild (f : Nat → Byte) : Block := buildBytes 16 f

/-- The block whose element at row `r`, column `c` is `f r c`: byte `r + 4c` (00_scope.md R14). -/
def blockOfMatrix (f : Nat → Nat → Byte) : Block := blockBuild fun i => f (i % 4) (i / 4)

/-- `s(r, c)` of R14. -/
def entry (s : Block) (r c : Nat) : Byte := byteAt s (r + 4 * c)

/-- Elementwise XOR of two blocks (R12). -/
def xorBlock (a b : Block) : Block := blockBuild fun i => byteAt a i ^^^ byteAt b i

/-- The first 16 bytes of a byte sequence, as a block. -/
def blockOfBytes (l : List Byte) : Block := blockBuild fun i => l.getD i 0#8

/-- The 16 bytes of a block, index 0 first. -/
def blockBytes (b : Block) : List Byte := (List.range 16).map (byteAt b)

/-- The all-zero block. -/
def zeroBlock : Block := blockBuild fun _ => 0#8

/-! ### The sparse buffers IN and OUT (20_memory.md R51) -/

/-- The byte at an address, or `none` while it is unwritten (R42). -/
def Memory.read : Memory → Nat → Option Byte
  | [], _ => none
  | (k, b) :: rest, a => if a = k then some b else Memory.read rest a

/-- One byte stored, the canonical form kept. -/
def Memory.write : Memory → Nat → Byte → Memory
  | [], a, b => [(a, b)]
  | (k, c) :: rest, a, b =>
    if a < k then (a, b) :: (k, c) :: rest
    else if a = k then (a, b) :: rest
    else (k, c) :: Memory.write rest a b

/-- The buffer whose bytes from address `a` on are exactly the sequence; every other byte is unwritten. -/
def Memory.ofBytesFrom : Nat → List Byte → Memory
  | _, [] => []
  | a, b :: bs => (a, b) :: Memory.ofBytesFrom (a + 1) bs

/-- Addresses strictly rising, each at least `lo` and below `hi`. -/
def Memory.within : Nat → Nat → Memory → Bool
  | _, _, [] => true
  | lo, hi, (k, _) :: rest => decide (lo ≤ k) && decide (k < hi) && Memory.within (k + 1) hi rest

/-- The canonical form, for a buffer of `size` bytes: addresses strictly rising, all inside the buffer. No entry can equal
what an unlisted address reads as, since that is no value at all. -/
def Memory.wf (size : Nat) (m : Memory) : Bool := Memory.within 0 size m

/-- `MemRead(m, addr, n)` (00_scope.md R13): the `n` bytes from `addr`, lowest address first, or the first address of them
that is unwritten. -/
def Memory.readRange (m : Memory) : Nat → Nat → Except Nat (List Byte)
  | _, 0 => .ok []
  | a, n + 1 =>
    match m.read a with
    | none => .error a
    | some b =>
      match Memory.readRange m (a + 1) n with
      | .error e => .error e
      | .ok bs => .ok (b :: bs)

/-! ### One byte, as every reader sees it -/

/-- How many bytes an array has (10_state.md R21, R54). -/
def State.size (s : State) : ByteArr → Nat
  | .key => 32
  | .iv => 16
  | .state => 16
  | .rk => 240
  | .inBuf => s.bufBytes
  | .outBuf => s.bufBytes

/-- Whether byte `i` of array `a` is written (R42). -/
def State.written (s : State) : ByteArr → Nat → Bool
  | .key, i => flagAt s.keyWritten i
  | .iv, _ => true
  | .state, i => flagAt s.stateWritten i
  | .rk, i => decide (i < s.rkWritten)
  | .inBuf, i => (s.inBuf.read i).isSome
  | .outBuf, i => (s.outBuf.read i).isSome

/-- The counter that picks the free values of array `a`. -/
def State.drawOf (s : State) : ByteArr → Nat
  | .rk => s.draws.rk
  | .outBuf => s.draws.out
  | .key | .iv | .state | .inBuf => s.draws.all

/-- What byte `i` of array `a` holds, where it is written. -/
def State.held (s : State) : ByteArr → Nat → Byte
  | .key, i => byteAt s.key i
  | .iv, i => byteAt s.iv i
  | .state, i => byteAt s.state i
  | .rk, i => byteAt s.rk i
  | .inBuf, i => (s.inBuf.read i).getD 0#8
  | .outBuf, i => (s.outBuf.read i).getD 0#8

/-- The value a reader of `A[i]` gets, the host or a command: the byte last written, or, while it is unwritten, a value
that no rule fixes (R42, R58; log entries 4 and 6). Reads agree with one another until the next write or reset (R56). -/
def State.readByte (s : State) (a : ByteArr) (i : Nat) : Byte :=
  if s.written a i then s.held a i else Config.unspecifiedByte a i (s.drawOf a)

/-- Whether `A[lo..lo+n)` is written throughout. -/
def State.allWritten (s : State) (a : ByteArr) (lo n : Nat) : Bool :=
  (List.range n).all fun j => s.written a (lo + j)

/-- A command reads the operand bytes `A[lo..lo+n)`: UnwrittenRead is recorded if one of them is unwritten (R42, R261;
log entry 4). -/
def State.noteRead (a : ByteArr) (lo n : Nat) (s : State) : State :=
  { s with unwrittenRead := s.unwrittenRead || !(s.allWritten a lo n) }

/-! ### Writes of results -/

/-- `STATE <- b`: all 16 bytes are written. -/
def State.putState (b : Block) (s : State) : State :=
  { s with state := b, stateWritten := Vector.replicate 16 true }

/-- `RK[0..len(sched)) <- sched; RK[len(sched)..240) <- unspecified` and the STATUS fields of a successful KEYEXP
(42_key_schedule.md R142). The tail holds zeros that no reader sees (log entry 10). -/
def State.putSchedule (cfg : KeyConfig) (sched : List Byte) (s : State) : State :=
  { s with
    rk := buildBytes 240 fun i => sched.getD i 0#8
    rkWritten := sched.length
    status := statusOnKeyexp cfg s.status
    draws := { s.draws with rk := s.draws.rk + 1 } }

/-- `MemWrite(OUT, 0, len(u), u); OUTLEN <- len(u)`: `OUT[OUTLEN..)` is unspecified afterwards (10_state.md R36). -/
def State.putResult (u : List Byte) (s : State) : State :=
  { s with
    outBuf := Memory.ofBytesFrom 0 u
    outlen := BitVec.ofNat 32 u.length
    draws := { s.draws with out := s.draws.out + 1 } }

/-! ### Fault entry and reset -/

/-- Fault entry: `STATUS.FAULTED <- 1; STATUS.ERR <- code(E); ERRCMD <- w`, "nothing else changes" (R231). -/
def State.raise (e : ErrCode) (w : Word) (s : State) : State :=
  { s with status := statusOnFault e s.status, errcmd := w }

/-- The command whose word is `w` ends with error `e`: a next state, since the fault is architectural. -/
def fail (e : ErrCode) (w : Word) (s : State) : Result := .next (s.raise e w)

/-- Order 0 of R233: "it does nothing while STATUS.FAULTED = 1" (R232). -/
def command (s : State) (body : Result) : Result := if s.faulted then .next s else body

/-- RESET (70_reset_and_hazards.md R250): every register to its reset value, KEY, STATE, RK, IN and OUT unspecified again.
The host's own list of operations, the capacity parameter and the record of UnwrittenRead are no registers of the core
and stay (log entry 11). -/
def State.doReset (s : State) : State :=
  { State.reset with
    bufBytes := s.bufBytes
    hostOps := s.hostOps
    unwrittenRead := s.unwrittenRead
    draws := ⟨s.draws.all + 1, s.draws.rk + 1, s.draws.out + 1⟩ }

end Sys2Proof.Machine
end

