-- ==== Sys2Proof/Machine/Operands.lean ====
section
/-! DEFINITION. Operand assembly (30_encoding.md R74 and the commands' "Operands" lines): the implicit operands STATE, RK,
KEY, IV and IN as the commands read them, and the ZIV selection (45_modes.md R200). -/

namespace Sys2Proof.Machine

/-- STATE[0..16) as a command reads it (10_state.md R27, R42). -/
def State.stateOperand (s : State) : Block := blockBuild fun i => s.readByte .state i

/-- Round-key block `r`, RK[16r..16r+16) (41_round_transform.md R126). -/
def State.roundKey (s : State) (r : Nat) : Block := blockBuild fun i => s.readByte .rk (16 * r + i)

/-- KEY[0..n) (42_key_schedule.md R142); bytes at index `n` and above are not read (10_state.md R24). -/
def State.keyOperand (s : State) (n : Nat) : List Byte := (List.range n).map fun i => s.readByte .key i

/-- `MemRead(IN, 0, INLEN)` (20_memory.md R51), or the first unwritten address. -/
def State.inOperand (s : State) : Except Nat (List Byte) := s.inBuf.readRange 0 s.inlen.toNat

/-- `IVsel = (z == 1) ? sixteen 0x00 bytes : IV[0..16)` (R200 (c)). -/
def State.ivOperand (s : State) (z : Bool) : Block :=
  if z then zeroBlock else blockBuild fun i => s.readByte .iv i

/-- The round keys 0 to NR are read: all of RK[0..16(NR+1)) is an operand (43_block_cipher.md R165). -/
def State.noteRoundKeys (s : State) : State := s.noteRead .rk 0 (16 * (s.nr + 1))

end Sys2Proof.Machine
end

