-- ==== Sys2Proof/Machine/KeySchedule.lean ====
section
/-! DEFINITION. The key schedule and the Nk/Nr dispatch (42_key_schedule.md), and KEYEXP. -/

namespace Sys2Proof.Machine

/-- A word of the schedule: four bytes, `b0` its first byte; never an integer (00_scope.md R15). -/
structure KeyWord where
  b0 : Byte
  b1 : Byte
  b2 : Byte
  b3 : Byte
  deriving DecidableEq, Repr

/-- Bytes `4i .. 4i+3` of a sequence, as a word. -/
def wordAt (l : List Byte) (i : Nat) : KeyWord :=
  ⟨l.getD (4 * i) 0#8, l.getD (4 * i + 1) 0#8, l.getD (4 * i + 2) 0#8, l.getD (4 * i + 3) 0#8⟩

def KeyWord.zero : KeyWord := ⟨0#8, 0#8, 0#8, 0#8⟩

def KeyWord.xor (a b : KeyWord) : KeyWord := ⟨a.b0 ^^^ b.b0, a.b1 ^^^ b.b1, a.b2 ^^^ b.b2, a.b3 ^^^ b.b3⟩

/-- "rotate left by one byte": the first byte moves to the end (R141). -/
def rotWord (t : KeyWord) : KeyWord := ⟨t.b1, t.b2, t.b3, t.b0⟩

/-- "substitute each byte" (R141). -/
def subWord (t : KeyWord) : KeyWord := ⟨sbox t.b0, sbox t.b1, sbox t.b2, sbox t.b3⟩

def KeyWord.bytes (t : KeyWord) : List Byte := [t.b0, t.b1, t.b2, t.b3]

/-- `Config(n)` (R140). -/
def keyConfig (n : Nat) : Option KeyConfig :=
  if n = 16 then some Config.aes128
  else if n = 24 then some Config.aes192
  else if n = 32 then some Config.aes256
  else none

/-- `temp` for word `i`, from word `i - 1`: the three branches of R141. -/
def scheduleTemp (nk i : Nat) (prev : KeyWord) : KeyWord :=
  if i % nk = 0 then
    let t := subWord (rotWord prev)
    { t with b0 := t.b0 ^^^ rcon (i / nk - 1) }
  else if 6 < nk ∧ i % nk = 4 then subWord prev
  else prev

/-- The next word, from the words so far, newest first: `temp XOR w[i-Nk]`. -/
def nextWord (nk i : Nat) (newestFirst : List KeyWord) : KeyWord :=
  (scheduleTemp nk i (newestFirst.getD 0 .zero)).xor (newestFirst.getD (nk - 1) .zero)

/-- `count` more words, the next of them word `i`; the words so far and the answer are newest first. -/
def expandWords (nk : Nat) : Nat → Nat → List KeyWord → List KeyWord
  | 0, _, ws => ws
  | count + 1, i, ws => expandWords nk count (i + 1) (nextWord nk i ws :: ws)

/-- The words `w[0] .. w[4*(Nr+1)-1]`, in order. -/
def scheduleWords (key : List Byte) (nk nr : Nat) : List KeyWord :=
  (expandWords nk (4 * (nr + 1) - nk) nk ((List.range nk).map (wordAt key)).reverse).reverse

/-- `KeyExpansion(key, Nk, Nr)` (R141): `16*(Nr+1)` bytes. -/
def keyExpansion (key : List Byte) (nk nr : Nat) : List Byte :=
  (scheduleWords key nk nr).flatMap KeyWord.bytes

/-- KEYEXP (R142). -/
def execKeyexp (s : State) : Result :=
  command s <|
    match keyConfig s.keylen.toNat with
    | none => fail .invalidKeyLength (encode .keyexp) s
    | some cfg =>
      .next ((s.noteRead .key 0 cfg.keyBytes).putSchedule cfg
        (keyExpansion (s.keyOperand cfg.keyBytes) cfg.nk cfg.nr))

end Sys2Proof.Machine
end

