-- ==== Sys2Proof/Machine/RoundEngine.lean ====
section
/-! DEFINITION. The round transform engine (41_round_transform.md): the four primitives and their inverses on a block,
and the seven round commands on STATE. -/

namespace Sys2Proof.Machine

/-- `SubBytes(s)[i] = SBOX[s[i]]` (R120). -/
def subBytes (s : Block) : Block := blockBuild fun i => sbox (byteAt s i)

/-- `InvSubBytes(s)[i] = INV_SBOX[s[i]]` (R121). -/
def invSubBytes (s : Block) : Block := blockBuild fun i => invSbox (byteAt s i)

/-- `ShiftRows(s)(r, c) = s(r, (c + r) mod 4)` (R122). -/
def shiftRows (s : Block) : Block := blockOfMatrix fun r c => entry s r ((c + r) % 4)

/-- `InvShiftRows(s)(r, c) = s(r, (c + 4 - r) mod 4)` (R123). -/
def invShiftRows (s : Block) : Block := blockOfMatrix fun r c => entry s r ((c + 4 - r) % 4)

/-- Row `r` of the matrix of R124 times the column `a0, a1, a2, a3`. -/
def mixRow (r : Nat) (a0 a1 a2 a3 : Byte) : Byte :=
  match r with
  | 0 => mul2 a0 ^^^ mul3 a1 ^^^ a2 ^^^ a3
  | 1 => a0 ^^^ mul2 a1 ^^^ mul3 a2 ^^^ a3
  | 2 => a0 ^^^ a1 ^^^ mul2 a2 ^^^ mul3 a3
  | _ => mul3 a0 ^^^ a1 ^^^ a2 ^^^ mul2 a3

/-- Row `r` of the matrix of R125 times the column. -/
def invMixRow (r : Nat) (a0 a1 a2 a3 : Byte) : Byte :=
  match r with
  | 0 => mul14 a0 ^^^ mul11 a1 ^^^ mul13 a2 ^^^ mul9 a3
  | 1 => mul9 a0 ^^^ mul14 a1 ^^^ mul11 a2 ^^^ mul13 a3
  | 2 => mul13 a0 ^^^ mul9 a1 ^^^ mul14 a2 ^^^ mul11 a3
  | _ => mul11 a0 ^^^ mul13 a1 ^^^ mul9 a2 ^^^ mul14 a3

/-- MixColumns (R124). -/
def mixColumns (s : Block) : Block :=
  blockOfMatrix fun r c => mixRow r (entry s 0 c) (entry s 1 c) (entry s 2 c) (entry s 3 c)

/-- InvMixColumns (R125). -/
def invMixColumns (s : Block) : Block :=
  blockOfMatrix fun r c => invMixRow r (entry s 0 c) (entry s 1 c) (entry s 2 c) (entry s 3 c)

/-- A round command without operand: STATE is read whole, then written whole. -/
def roundCommand (f : Block → Block) (s : State) : Result :=
  command s (.next ((s.noteRead .state 0 16).putState (f s.stateOperand)))

/-- SUBBYTES (R120). -/
def execSubbytes (s : State) : Result := roundCommand subBytes s
/-- INVSUBBYTES (R121). -/
def execInvsubbytes (s : State) : Result := roundCommand invSubBytes s
/-- SHIFTROWS (R122). -/
def execShiftrows (s : State) : Result := roundCommand shiftRows s
/-- INVSHIFTROWS (R123). -/
def execInvshiftrows (s : State) : Result := roundCommand invShiftRows s
/-- MIXCOLUMNS (R124). -/
def execMixcolumns (s : State) : Result := roundCommand mixColumns s
/-- INVMIXCOLUMNS (R125). -/
def execInvmixcolumns (s : State) : Result := roundCommand invMixColumns s

/-- ADDRK r (R126), its checks in the order of 60_exceptions.md R233. -/
def execAddrk (r : Nat) (s : State) : Result :=
  command s <|
    if !s.keyValid then fail .noKeySchedule (encode (.addrk r)) s
    else if s.nr < r then fail .roundIndexRange (encode (.addrk r)) s
    else
      .next (((s.noteRead .state 0 16).noteRead .rk (16 * r) 16).putState (xorBlock s.stateOperand (s.roundKey r)))

end Sys2Proof.Machine
end

