-- ==== Sys2Proof/Machine/BlockCipher.lean ====
section
/-! DEFINITION. The block cipher (43_block_cipher.md): Cipher and InvCipher over the round-key blocks, ENCBLK, DECBLK. -/

namespace Sys2Proof.Machine

/-- One interior encrypt round (R160 step 2). -/
def encRound (rk : Nat → Block) (r : Nat) (s : Block) : Block :=
  xorBlock (mixColumns (shiftRows (subBytes s))) (rk r)

/-- Rounds 1 to `n`, in order. -/
def encRounds (rk : Nat → Block) : Nat → Block → Block
  | 0, s => s
  | n + 1, s => encRound rk (n + 1) (encRounds rk n s)

/-- `Cipher(s, Nr)` (R160). -/
def cipher (rk : Nat → Block) (nr : Nat) (s : Block) : Block :=
  xorBlock (shiftRows (subBytes (encRounds rk (nr - 1) (xorBlock s (rk 0))))) (rk nr)

/-- One interior decrypt round (R161): AddRoundKey, InvMixColumns, InvShiftRows, InvSubBytes. -/
def decRound (rk : Nat → Block) (r : Nat) (s : Block) : Block :=
  invSubBytes (invShiftRows (invMixColumns (xorBlock s (rk r))))

/-- Rounds `n` down to 1. -/
def decRounds (rk : Nat → Block) : Nat → Block → Block
  | 0, s => s
  | n + 1, s => decRounds rk n (decRound rk (n + 1) s)

/-- `InvCipher(s, Nr)` (R161). -/
def invCipher (rk : Nat → Block) (nr : Nat) (s : Block) : Block :=
  xorBlock (decRounds rk (nr - 1) (invSubBytes (invShiftRows (xorBlock s (rk nr))))) (rk 0)

/-- One block under the schedule in RK and the round count in STATUS.NR (R165). -/
def State.encryptBlock (s : State) (b : Block) : Block := cipher s.roundKey s.nr b
def State.decryptBlock (s : State) (b : Block) : Block := invCipher s.roundKey s.nr b

/-- A command that turns STATE into `f STATE` with the schedule (R162, R163); `w` is its word. -/
def blockCommand (w : Word) (f : Block → Block) (s : State) : Result :=
  command s <|
    if !s.keyValid then fail .noKeySchedule w s
    else .next ((s.noteRead .state 0 16).noteRoundKeys.putState (f s.stateOperand))

/-- ENCBLK (R162). -/
def execEncblk (s : State) : Result := blockCommand (encode .encblk) s.encryptBlock s
/-- DECBLK (R163). -/
def execDecblk (s : State) : Result := blockCommand (encode .decblk) s.decryptBlock s

end Sys2Proof.Machine
end

