-- ==== Sys2Proof/Machine/Padding.lean ====
section
/-! DEFINITION. PKCS#7 padding (44_padding.md): Pad, the permissive and the strict removal, PAD and UNPAD. -/

namespace Sys2Proof.Machine

/-- `pad = bs - (n mod bs)`: how many bytes Pad appends to `n` bytes (R181). -/
def padCount (n bs : Nat) : Nat := bs - n % bs

/-- `Pad(data, bs)` (R181). -/
def padBytes (d : List Byte) (bs : Nat) : List Byte :=
  d ++ List.replicate (padCount d.length bs) (BitVec.ofNat 8 (padCount d.length bs))

/-- "read the last byte as the claimed pad length `p`" (R182). -/
def claimedPad (d : List Byte) : Nat := (d.getLastD 0#8).toNat

/-- `UnpadPermissive(data)` (R182). -/
def unpadPermissive (d : List Byte) : List Byte :=
  if d.length < claimedPad d then [] else d.take (d.length - claimedPad d)

/-- `UnpadStrict(data, pmax)` (R183); `none` is FAIL. -/
def unpadStrict (d : List Byte) (pmax : Nat) : Option (List Byte) :=
  if claimedPad d = 0 ∨ pmax < claimedPad d ∨ d.length < claimedPad d then none
  else if (d.drop (d.length - claimedPad d)).all fun b => b.toNat == claimedPad d then
    some (d.take (d.length - claimedPad d))
  else none

/-- Padding removal as CTRL.STRICT_PAD selects it (R185, 45_modes.md R200 (f)). -/
def State.unpad (s : State) (pmax : Nat) (d : List Byte) : Option (List Byte) :=
  if s.strictPad then unpadStrict d pmax else some (unpadPermissive d)

/-- The end of UNPAD, ECBDEC and CBCDEC: the padding of `q` is removed, or PADDING_INVALID is raised on the state `s`
before the command ("the decrypted blocks are discarded", 60_exceptions.md R231). -/
def finishUnpad (w : Word) (pmax : Nat) (q : List Byte) (s : State) (noted : State) : Result :=
  match s.unpad pmax q with
  | none => fail .paddingInvalid w s
  | some u => .next (noted.putResult u)

/-- PAD bs (R184). The length checks come before the bytes of IN are read (60_exceptions.md R233, orders 3, 4, 7). -/
def execPad (bs : Nat) (s : State) : Result :=
  command s <|
    if bs = 0 then fail .invalidBlockSize (encode (.pad bs)) s
    else if s.bufBytes < s.inlen.toNat then fail .capacityExceeded (encode (.pad bs)) s
    else if s.bufBytes < s.inlen.toNat + padCount s.inlen.toNat bs then fail .capacityExceeded (encode (.pad bs)) s
    else
      match s.inOperand with
      | .error a => .fault (.unwrittenRead a)
      | .ok d => .next (s.putResult (padBytes d bs))

/-- UNPAD (R185). -/
def execUnpad (s : State) : Result :=
  command s <|
    if s.bufBytes < s.inlen.toNat then fail .capacityExceeded (encode .unpad) s
    else if s.inlen.toNat = 0 then fail .emptyInput (encode .unpad) s
    else
      match s.inOperand with
      | .error a => .fault (.unwrittenRead a)
      | .ok d => finishUnpad (encode .unpad) 255 d s s

end Sys2Proof.Machine
end

