-- ==== Sys2Proof/Machine/Modes.lean ====
section
/-! DEFINITION. The chaining modes (45_modes.md): ECB and CBC over byte buffers, from IN to OUT. W, PREV and the block
index are local to one command (10_state.md R39). -/

namespace Sys2Proof.Machine

/-- The first `m` blocks of a byte sequence (R200 (a)). -/
def blocksOf : Nat → List Byte → List Block
  | 0, _ => []
  | m + 1, x => blockOfBytes x :: blocksOf m (x.drop 16)

/-- The blocks of a sequence whose length is a multiple of 16. -/
def splitBlocks (x : List Byte) : List Block := blocksOf (x.length / 16) x

/-- The concatenation of blocks. -/
def joinBlocks (bs : List Block) : List Byte := bs.flatMap blockBytes

/-- CBC encryption from the chaining value PREV: `C[k] = E(P[k] XOR PREV)`, then PREV is `C[k]` (R203). -/
def cbcEncrypt (e : Block → Block) : Block → List Block → List Block
  | _, [] => []
  | prev, p :: ps => e (xorBlock p prev) :: cbcEncrypt e (e (xorBlock p prev)) ps

/-- CBC decryption: `P[k] = D(C[k]) XOR PREV`, then PREV is the CIPHERTEXT block `C[k]` (R204; 90_conflicts.md C6). -/
def cbcDecrypt (d : Block → Block) : Block → List Block → List Block
  | _, [] => []
  | prev, c :: cs => xorBlock (d c) prev :: cbcDecrypt d c cs

/-- The shape of ECBENC and CBCENC (R201, R203): checks in the order of 60_exceptions.md R233, IN padded to 16, its blocks
turned into the blocks of OUT. -/
def encryptBuffer (w : Word) (f : List Block → List Block) (s : State) : Result :=
  command s <|
    if !s.keyValid then fail .noKeySchedule w s
    else if s.bufBytes < s.inlen.toNat then fail .capacityExceeded w s
    else if s.bufBytes < s.inlen.toNat + padCount s.inlen.toNat 16 then fail .capacityExceeded w s
    else
      match s.inOperand with
      | .error a => .fault (.unwrittenRead a)
      | .ok d => .next (s.noteRoundKeys.putResult (joinBlocks (f (splitBlocks (padBytes d 16)))))

/-- The shape of ECBDEC and CBCDEC (R202, R204). -/
def decryptBuffer (w : Word) (f : List Block → List Block) (s : State) : Result :=
  command s <|
    if !s.keyValid then fail .noKeySchedule w s
    else if s.bufBytes < s.inlen.toNat then fail .capacityExceeded w s
    else if s.inlen.toNat = 0 then fail .emptyInput w s
    else if s.inlen.toNat % 16 ≠ 0 then fail .partialFinalBlock w s
    else
      match s.inOperand with
      | .error a => .fault (.unwrittenRead a)
      | .ok c => finishUnpad w 16 (joinBlocks (f (splitBlocks c))) s s.noteRoundKeys

/-- ECBENC (R201). -/
def execEcbenc (s : State) : Result := encryptBuffer (encode .ecbenc) (List.map s.encryptBlock) s
/-- ECBDEC (R202). -/
def execEcbdec (s : State) : Result := decryptBuffer (encode .ecbdec) (List.map s.decryptBlock) s
/-- CBCENC [ziv] (R203). -/
def execCbcenc (z : Bool) (s : State) : Result :=
  encryptBuffer (encode (.cbcenc z)) (cbcEncrypt s.encryptBlock (s.ivOperand z)) s
/-- CBCDEC [ziv] (R204). -/
def execCbcdec (z : Bool) (s : State) : Result :=
  decryptBuffer (encode (.cbcdec z)) (cbcDecrypt s.decryptBlock (s.ivOperand z)) s

end Sys2Proof.Machine
end

