-- ==== Sys2Proof/Machine/HostInterface.lean ====
section
/-! DEFINITION. The host interface (20_memory.md R53, R54): each host operation is one step. A write of CMD runs one whole
command (10_state.md R20, R37); how a command runs is the argument `run`, which Machine/Step.lean gives as exec. -/

namespace Sys2Proof.Machine

/-- A write of `w` to CMD: ignored while FAULTED (60_exceptions.md R232); else decoded, ILLEGAL raising ILLEGAL_COMMAND
with ERRCMD = `w` (30_encoding.md R73), a command executed. -/
def issueCommand (run : Instr → State → Result) (w : Word) (s : State) : Result :=
  command s <|
    match decode w with
    | none => fail .illegalCommand w s
    | some i => run i s

/-- STATUS.KEY_VALID is cleared by every host write to KEY or KEYLEN (10_state.md R24, R25). -/
def State.keyTouched (s : State) : State := { s with status := statusOnKeyWrite s.status }

/-- `WriteReg(R, v)` (R53): a RW register takes `v` truncated to its width, a RO register ignores it, CMD issues `v`. -/
def writeReg (run : Instr → State → Result) (r : ScalarReg) (v : Word) (s : State) : Result :=
  match r with
  | .keylen => .next ({ s with keylen := v.setWidth 8 }).keyTouched
  | .ctrl => .next { s with ctrl := ctrlOnWrite v }
  | .inlen => .next { s with inlen := v }
  | .status | .errcmd | .outlen => .next s
  | .cmd => issueCommand run v s

/-- `ReadReg(R)` (R53), zero-extended to 32 bits; "CMD returns 0". -/
def State.regValue (s : State) : ScalarReg → Word
  | .keylen => s.keylen.setWidth 32
  | .ctrl => s.ctrl
  | .status => s.status
  | .errcmd => s.errcmd
  | .inlen => s.inlen
  | .outlen => s.outlen
  | .cmd => 0#32

/-- `WriteByte(A, i, b)` inside the array (R53): RK and OUT are read-only and ignore it (R54). -/
def State.writeByte (s : State) (a : ByteArr) (i : Nat) (b : Byte) : State :=
  match a with
  | .key =>
    State.keyTouched { s with
      key := s.key.setIfInBounds i b
      keyWritten := s.keyWritten.setIfInBounds i true }
  | .iv => { s with iv := s.iv.setIfInBounds i b }
  | .state =>
    { s with
      state := s.state.setIfInBounds i b
      stateWritten := s.stateWritten.setIfInBounds i true }
  | .inBuf => { s with inBuf := s.inBuf.write i b }
  | .rk | .outBuf => s

/-- One host operation. An index outside the array is no operation of the interface (R54, R266). -/
def hostStep (run : Instr → State → Result) (op : HostOp) (s : State) : Result :=
  match op with
  | .reset => .next s.doReset
  | .writeReg r v => writeReg run r v s
  | .readReg r => .next { s with reply := some (s.regValue r) }
  | .writeByte a i b =>
    if i < s.size a then .next (s.writeByte a i b) else .refused (.hostIndexOutOfRange a i)
  | .readByte a i =>
    if i < s.size a then .next { s with reply := some ((s.readByte a i).setWidth 32) }
    else .refused (.hostIndexOutOfRange a i)

/-- The state in which the operation at the head of the host's list is taken: the operation is off the list, and the
reply of the one before is gone. -/
def State.takeOp (s : State) (rest : List HostOp) : State := { s with hostOps := rest, reply := none }

/-- One step (R20). With no operation to come the core "holds its state unchanged" (60_exceptions.md R242; log entry 7). -/
def stepWith (run : Instr → State → Result) (s : State) : Result :=
  match s.hostOps with
  | [] => .next s
  | op :: rest => hostStep run op (s.takeOp rest)

/-- `w` as the next word the host writes to CMD, in front of the operations still to come (log entry 7). -/
def State.placeCommand (s : State) (w : Word) : State := { s with hostOps := .writeReg .cmd w :: s.hostOps }

end Sys2Proof.Machine
end

