-- ==== Sys2Proof/Machine/Step.lean ====
section
/-! DEFINITION. The step of the machine: one host operation (10_state.md R20, R23). -/

namespace Sys2Proof.Machine

/-- One step: the next host operation, a command being run by exec. -/
def step (s : State) : Host.Outcome State Fault Refusal := stepWith exec s

/-- `s` with that command word written to CMD as the very next host operation. -/
def State.withFetchWord (s : State) (_nbits w : Nat) : State := s.placeCommand (BitVec.ofNat 32 w)

end Sys2Proof.Machine
end

