-- ==== Sys2Proof/Machine/Checked.lean ====
section
/-! DEFINITION. The checked machine: step with the model fault UnwrittenRead of 10_state.md R42 raised for every array, at
its place in the order of 60_exceptions.md R233. Machine/Step.lean's step raises it for IN and records it for KEY, STATE
and RK (log entry 4). -/

namespace Sys2Proof.Machine

/-- The bytes `arr[lo..lo+len)`. -/
structure ByteRange where
  arr : ByteArr
  lo : Nat
  len : Nat
  deriving DecidableEq, Repr

/-- The bytes of KEY, STATE and RK that a command reads as operands once its checks are passed (10_state.md R21;
41_round_transform.md R126; 42_key_schedule.md R142; 43_block_cipher.md R165). IN is the meanings' own check, and IV is
never unwritten. -/
def registerOperands (i : Instr) (s : State) : List ByteRange :=
  match i with
  | .keyexp => [⟨.key, 0, s.keylen.toNat⟩]
  | .subbytes | .invsubbytes | .shiftrows | .invshiftrows | .mixcolumns | .invmixcolumns => [⟨.state, 0, 16⟩]
  | .addrk r => [⟨.state, 0, 16⟩, ⟨.rk, 16 * r, 16⟩]
  | .encblk | .decblk => [⟨.state, 0, 16⟩, ⟨.rk, 0, 16 * (s.nr + 1)⟩]
  | .ecbenc | .ecbdec | .cbcenc _ | .cbcdec _ => [⟨.rk, 0, 16 * (s.nr + 1)⟩]
  | .pad _ | .unpad => []

/-- The first unwritten byte of a range, with its array. -/
def ByteRange.firstUnwritten (s : State) (g : ByteRange) : Option (ByteArr × Nat) :=
  ((List.range g.len).find? fun j => !s.written g.arr (g.lo + j)).map fun j => (g.arr, g.lo + j)

/-- The first unwritten byte of KEY, STATE or RK among a command's operands. -/
def unwrittenRegister (i : Instr) (s : State) : Option (ByteArr × Nat) :=
  (registerOperands i s).findSome? (ByteRange.firstUnwritten s)

/-- A command that took `s` to `t` found none of the conditions of orders 0 to 7 of 60_exceptions.md R233. -/
def passedChecks (s t : State) : Bool :=
  !s.faulted && (!t.faulted || t.err == ErrCode.code .paddingInvalid)

/-- A command as R42 words it: past orders 0 to 7, and before PADDING_INVALID, an unwritten operand byte is the model
fault. -/
def checkedExec (i : Instr) (s : State) : Result :=
  match exec i s with
  | .next t =>
    if passedChecks s t then
      match unwrittenRegister i s with
      | some (a, j) => .fault (.unwrittenRegister a j)
      | none => .next t
    else .next t
  | .fault f => .fault f
  | .refused r => .refused r

/-- One step of the checked machine. -/
def checkedStep (s : State) : Result := stepWith checkedExec s

end Sys2Proof.Machine
end

