-- ==== Sys2Proof/Machine/Program.lean ====
section
/-! DEFINITION. Programs as the host writes them (30_encoding.md R78, R79): host directives and pseudo-instructions, each a
sequence of the host operations of 20_memory.md R53. Neither has an encoding of its own. -/

namespace Sys2Proof.Machine

/-- A host directive, or a command line (R78). -/
inductive Directive where
  | reset
  | wr (r : ScalarReg) (v : Word)
  | wrb (a : ByteArr) (bytes : List Byte)
  | rd (r : ScalarReg)
  | rdb (a : ByteArr) (n : Nat)
  | cmd (i : Instr)
  deriving DecidableEq, Repr

/-- `WriteByte(A, i, b_i)` for each byte in order, the first at index `i` (R78). -/
def writeBytesOps (a : ByteArr) : Nat → List Byte → List HostOp
  | _, [] => []
  | i, b :: bs => .writeByte a i b :: writeBytesOps a (i + 1) bs

/-- The host operations of a directive (R78). -/
def Directive.ops : Directive → List HostOp
  | .reset => [.reset]
  | .wr r v => [.writeReg r v]
  | .wrb a bytes => writeBytesOps a 0 bytes
  | .rd r => [.readReg r]
  | .rdb a n => (List.range n).map (.readByte a)
  | .cmd i => [.writeReg .cmd (encode i)]

/-- The host operations of a program, in order. -/
def programOps (p : List Directive) : List HostOp := p.flatMap Directive.ops

/-- The pseudo-instructions (R79). -/
inductive Pseudo where
  | round (r : Nat)
  | finalround (r : Nat)
  | invround (r : Nat)
  | invfinalround
  | setkey (bytes : List Byte)
  | setiv (bytes : List Byte)
  | pad16
  deriving DecidableEq, Repr

/-- The expansion of a pseudo-instruction, "the commands shown, in order" (R79). R79 gives setiv for 16
bytes; that a list of any other length expands to `wrb IV` all the same is the model's choice (log entry 21). -/
def Pseudo.expand : Pseudo → List Directive
  | .round r => [.cmd .subbytes, .cmd .shiftrows, .cmd .mixcolumns, .cmd (.addrk r)]
  | .finalround r => [.cmd .subbytes, .cmd .shiftrows, .cmd (.addrk r)]
  | .invround r => [.cmd .invshiftrows, .cmd .invsubbytes, .cmd (.addrk r), .cmd .invmixcolumns]
  | .invfinalround => [.cmd .invshiftrows, .cmd .invsubbytes, .cmd (.addrk 0)]
  | .setkey bytes => [.wrb .key bytes, .wr .keylen (BitVec.ofNat 32 bytes.length), .cmd .keyexp]
  | .setiv bytes => [.wrb .iv bytes]
  | .pad16 => [.cmd (.pad 16)]

/-- `addrk 0`, `round 1` ... `round Nr-1`, `finalround Nr`: ENCBLK written out (R79). -/
def encryptRoundsProgram (nr : Nat) : List Directive :=
  .cmd (.addrk 0) :: (List.range (nr - 1)).flatMap (fun k => (Pseudo.round (k + 1)).expand) ++ (Pseudo.finalround nr).expand

/-- `addrk Nr`, `invround Nr-1` ... `invround 1`, `invfinalround`: DECBLK written out (43_block_cipher.md R161). -/
def decryptRoundsProgram (nr : Nat) : List Directive :=
  .cmd (.addrk nr) :: (List.range (nr - 1)).flatMap (fun k => (Pseudo.invround (nr - 1 - k)).expand)
    ++ Pseudo.invfinalround.expand

end Sys2Proof.Machine
end

