-- ==== Sys2Proof/Safety.lean ====
section
/-! DEFINITION. What a run is and when it ends well (70_reset_and_hazards.md R272). -/

namespace Sys2Proof.Machine

/-- The state right after reset in which the host has these operations to issue: how a program comes to run (log entry 7). -/
def State.start (ops : List HostOp) : State := { State.reset with hostOps := ops }

/-- The run of a finite sequence of host operations from `s`: every operation is one step (R272). -/
def runOps (s : State) (ops : List HostOp) : Result := Sys2Proof.core.run ops.length { s with hostOps := ops }

/-- A state in which a run of `step` may end successfully: "STATUS.FAULTED = 0 and no model fault UnwrittenRead was
raised" (R272), the model fault being either a stop or the record (log entry 4). -/
def State.endsWell (s : State) : Bool := !s.faulted && !s.unwrittenRead

/-- The checked machine behind the host's interface: every UnwrittenRead of 10_state.md R42 is a stop. -/
def checkedCore : Host.Core :=
  { State := State
    Fault := Fault
    Refusal := Refusal
    step := checkedStep
    reset := State.reset }

/-- The run of a finite sequence of host operations from `s` on the checked machine. -/
def runChecked (s : State) (ops : List HostOp) : Result := checkedCore.run ops.length { s with hostOps := ops }

/-- A run from reset is safe when the checked machine raises no model fault and ends with FAULTED = 0 (R272). -/
def safeRun (ops : List HostOp) : Bool :=
  match runChecked State.reset ops with
  | .next t => !t.faulted
  | .fault _ => false
  | .refused _ => false

end Sys2Proof.Machine
end

