-- ==== Sys2Proof/Certificates/Slice0/Vocabulary.lean ====
section
/-! DEFINITION. The words the statements of Obligations.lean are written in: frames, what a reader sees, the error order
of 60_exceptions.md R233, and the invariants. Each is written from the spec's own tables, not from the meanings. -/

namespace Sys2Proof.Claims

open Sys2Proof.Machine

/-! ### Frames -/

/-- Every byte of every array but `a` reads as before. -/
def BytesKept (a : ByteArr) (s t : State) : Prop := ∀ b i, b ≠ a → t.readByte b i = s.readByte b i

/-- Only STATE is written (all 16 bytes): every register, STATUS among them, every byte of KEY, IV, RK, IN and OUT, and
the host's side are as before. The record of UnwrittenRead may be set; UnwrittenReadIsRecorded says when. -/
def OnlyState (s t : State) : Prop :=
  t = { s with state := t.state, stateWritten := t.stateWritten, unwrittenRead := t.unwrittenRead } ∧
    t.status = s.status ∧ (∀ i, i < 16 → t.written .state i = true) ∧ BytesKept .state s t

/-- Only OUT and OUTLEN are written, OUT being exactly OUT[0..OUTLEN) (the rest is unspecified, 10_state.md R36). -/
def OnlyOut (s t : State) : Prop :=
  t = { s with outBuf := t.outBuf, outlen := t.outlen, unwrittenRead := t.unwrittenRead, draws := t.draws } ∧
    t.draws.all = s.draws.all ∧ t.draws.rk = s.draws.rk ∧ t.status = s.status ∧
    (∀ i, t.written .outBuf i = decide (i < t.outlen.toNat)) ∧ BytesKept .outBuf s t

/-- The reserved bits of STATUS: 31:24, 15:12 and 3:2 (10_state.md R30). -/
def statusReserved : Word := 0xff00f00c#32

/-- Only RK and the fields KEY_VALID, NK, NR of STATUS are written. -/
def OnlySchedule (s t : State) : Prop :=
  t = { s with
    rk := t.rk, rkWritten := t.rkWritten, status := t.status, unwrittenRead := t.unwrittenRead, draws := t.draws } ∧
    t.draws.all = s.draws.all ∧ t.draws.out = s.draws.out ∧ t.faulted = s.faulted ∧ t.err = s.err ∧
    t.status &&& statusReserved = s.status &&& statusReserved ∧ BytesKept .rk s t

/-- Fault entry (60_exceptions.md R231): FAULTED, ERR and ERRCMD are written, "nothing else changes". -/
def Recorded (e : ErrCode) (w : Word) (s t : State) : Prop :=
  t = { s with status := t.status, errcmd := w } ∧ t.faulted = true ∧ t.err = e.code ∧
    t.keyValid = s.keyValid ∧ t.nk = s.nk ∧ t.nr = s.nr ∧
    t.status &&& statusReserved = s.status &&& statusReserved ∧ ∀ a i, t.readByte a i = s.readByte a i

/-- The state in which the operation at the head of the host's list is taken. -/
def taken (rest : List HostOp) (s : State) : State := { s with hostOps := rest, reply := none }

/-! ### What a reader sees -/

/-- The 16 bytes of an array from an offset on. -/
def blockAt (s : State) (a : ByteArr) (off : Nat) : Block := blockBuild fun j => s.readByte a (off + j)

/-- INLEN as a number. -/
def inLen (s : State) : Nat := s.inlen.toNat

/-- IN[0..INLEN). -/
def inBytes (s : State) : List Byte := (List.range (inLen s)).map (s.readByte .inBuf)

/-- Every byte of IN[0..INLEN) is written. -/
def InWritten (s : State) : Prop := ∀ i, i < inLen s → s.written .inBuf i = true

/-- Word `i` of RK: bytes 4i .. 4i+3 (00_scope.md R15). -/
def rkWord (s : State) (i : Nat) : KeyWord :=
  ⟨s.readByte .rk (4 * i), s.readByte .rk (4 * i + 1), s.readByte .rk (4 * i + 2), s.readByte .rk (4 * i + 3)⟩

/-- The capacity is one R8 allows. -/
def LegalCapacity (s : State) : Prop := Config.minBufBytes ≤ s.bufBytes ∧ s.bufBytes ≤ Config.maxBufBytes

/-! ### The round transform and the cipher, written out -/

/-- Output byte `i` of ShiftRows takes this input byte (41_round_transform.md R122). -/
def shiftSource : List Nat := [0, 5, 10, 15, 4, 9, 14, 3, 8, 13, 2, 7, 12, 1, 6, 11]

/-- Output byte `i` of InvShiftRows takes this input byte (R123). -/
def invShiftSource : List Nat := [0, 13, 10, 7, 4, 1, 14, 11, 8, 5, 2, 15, 12, 9, 6, 3]

/-- Row `r` of the matrix whose row `j` is `coef` rotated right by `j`, times a column, in GF(2^8) (R124, R125). -/
def circulantRow (coef : List Byte) (col : Nat → Byte) (r : Nat) : Byte :=
  (List.range 4).foldl (fun acc k => acc ^^^ gmul (col k) (coef.getD ((k + 4 - r) % 4) 0#8)) 0#8

/-- `Cipher(s, Nr)` as the loop of 43_block_cipher.md R160. -/
def cipherLoop (rk : Nat → Block) (nr : Nat) (s : Block) : Block :=
  let start := xorBlock s (rk 0)
  let interior := (List.range' 1 (nr - 1)).foldl
    (fun b r => xorBlock (mixColumns (shiftRows (subBytes b))) (rk r)) start
  xorBlock (shiftRows (subBytes interior)) (rk nr)

/-- `InvCipher(s, Nr)` as the loop of R161: interior rounds r = Nr-1 down to 1. -/
def invCipherLoop (rk : Nat → Block) (nr : Nat) (s : Block) : Block :=
  let start := invSubBytes (invShiftRows (xorBlock s (rk nr)))
  let interior := (List.range' 1 (nr - 1)).reverse.foldl
    (fun b r => invSubBytes (invShiftRows (invMixColumns (xorBlock b (rk r))))) start
  xorBlock interior (rk 0)

/-- The recurrence of 42_key_schedule.md R141 at word `i`, its three branches written out. -/
def ScheduleStep (nk : Nat) (w : Nat → KeyWord) (i : Nat) : Prop :=
  let p := w (i - 1)
  let q := w (i - nk)
  (i % nk = 0 →
    w i = ⟨sbox p.b1 ^^^ rcon (i / nk - 1) ^^^ q.b0, sbox p.b2 ^^^ q.b1, sbox p.b3 ^^^ q.b2, sbox p.b0 ^^^ q.b3⟩) ∧
  (i % nk ≠ 0 → 6 < nk → i % nk = 4 →
    w i = ⟨sbox p.b0 ^^^ q.b0, sbox p.b1 ^^^ q.b1, sbox p.b2 ^^^ q.b2, sbox p.b3 ^^^ q.b3⟩) ∧
  (i % nk ≠ 0 → ¬(6 < nk ∧ i % nk = 4) →
    w i = ⟨p.b0 ^^^ q.b0, p.b1 ^^^ q.b1, p.b2 ^^^ q.b2, p.b3 ^^^ q.b3⟩)

/-! ### Padding and modes, byte by byte -/

/-- Byte `i` of `Pad(IN[0..INLEN), bs)` (44_padding.md R181). -/
def paddedByte (s : State) (bs i : Nat) : Byte :=
  if i < inLen s then s.readByte .inBuf i else BitVec.ofNat 8 (bs - inLen s % bs)

/-- Block `k` of the padded input of ECBENC and CBCENC. -/
def paddedBlock (s : State) (k : Nat) : Block := blockBuild fun j => paddedByte s 16 (16 * k + j)

/-- The all-zero IV or the IV register (45_modes.md R200 (c)). -/
def ivBlock (s : State) (z : Bool) : Block := if z then zeroBlock else blockAt s .iv 0

/-- The decrypted data `q` of ECBDEC, before padding removal (R202). -/
def ecbPlain (s : State) : List Byte :=
  (List.range (inLen s / 16)).flatMap fun k => blockBytes (s.decryptBlock (blockAt s .inBuf (16 * k)))

/-- The decrypted data `q` of CBCDEC, before padding removal (R204). -/
def cbcPlain (s : State) (z : Bool) : List Byte :=
  (List.range (inLen s / 16)).flatMap fun k =>
    blockBytes (xorBlock (s.decryptBlock (blockAt s .inBuf (16 * k)))
      (if k = 0 then ivBlock s z else blockAt s .inBuf (16 * (k - 1))))

/-- The pad length a buffer claims: its last byte. -/
def lastByte (q : List Byte) : Nat := (q.getLastD 0#8).toNat

/-- Strict removal succeeds: `1 <= p <= pmax`, `p <= len`, and the last `p` bytes are all `p` (44_padding.md R183). -/
def StrictOk (pmax : Nat) (q : List Byte) : Prop :=
  1 ≤ lastByte q ∧ lastByte q ≤ pmax ∧ lastByte q ≤ q.length ∧
    ∀ j, q.length - lastByte q ≤ j → j < q.length → (q.getD j 0#8).toNat = lastByte q

/-- OUT holds `q` without its last `p` bytes (empty where `p` exceeds its length, R182), and nothing but OUT and OUTLEN
has changed. -/
def OutIsUnpadded (q : List Byte) (s t : State) : Prop :=
  t.outlen.toNat = q.length - lastByte q ∧ (∀ i, i < t.outlen.toNat → t.readByte .outBuf i = q.getD i 0#8) ∧ OnlyOut s t

/-- Padding removal under CTRL.STRICT_PAD: permissive truncation, or the strict check with PADDING_INVALID (R185, R200 (f)). -/
def RemovesPadding (w : Word) (pmax : Nat) (q : List Byte) (s t : State) : Prop :=
  (s.strictPad = false → OutIsUnpadded q s t) ∧
  (s.strictPad = true → StrictOk pmax q → OutIsUnpadded q s t) ∧
  (s.strictPad = true → ¬StrictOk pmax q → Recorded .paddingInvalid w s t)

/-- What ECBENC and CBCENC need to complete: a schedule (its bytes need not be written, log entry 4), IN written up to INLEN,
and room for the padded result. -/
def EncryptReady (s : State) : Prop :=
  s.faulted = false ∧ s.keyValid = true ∧ LegalCapacity s ∧ InWritten s ∧ 16 * (inLen s / 16 + 1) ≤ s.bufBytes

/-- What ECBDEC and CBCDEC need to run to the padding check (RK's bytes need not be written, log entry 4). -/
def DecryptReady (s : State) : Prop :=
  s.faulted = false ∧ s.keyValid = true ∧ LegalCapacity s ∧ InWritten s ∧ inLen s ≤ s.bufBytes ∧
    0 < inLen s ∧ inLen s % 16 = 0

/-! ### The error order of 60_exceptions.md R233 -/

/-- The commands that need RK (R226). -/
def needsSchedule : Instr → Bool
  | .addrk _ | .encblk | .decblk | .ecbenc | .ecbdec | .cbcenc _ | .cbcdec _ => true
  | .keyexp | .subbytes | .invsubbytes | .shiftrows | .invshiftrows | .mixcolumns | .invmixcolumns | .pad _ | .unpad => false

/-- The commands that read IN (10_state.md R21). -/
def readsIn : Instr → Bool
  | .pad _ | .unpad | .ecbenc | .ecbdec | .cbcenc _ | .cbcdec _ => true
  | .keyexp | .subbytes | .invsubbytes | .shiftrows | .invshiftrows | .mixcolumns | .invmixcolumns | .addrk _
  | .encblk | .decblk => false

/-- The commands on STATE (10_state.md R21). -/
def writesState : Instr → Bool
  | .subbytes | .invsubbytes | .shiftrows | .invshiftrows | .mixcolumns | .invmixcolumns | .addrk _ | .encblk | .decblk => true
  | .keyexp | .pad _ | .unpad | .ecbenc | .ecbdec | .cbcenc _ | .cbcdec _ => false

/-- The commands that remove padding. -/
def unpads : Instr → Bool
  | .unpad | .ecbdec | .cbcdec _ => true
  | .keyexp | .subbytes | .invsubbytes | .shiftrows | .invshiftrows | .mixcolumns | .invmixcolumns | .addrk _
  | .encblk | .decblk | .pad _ | .ecbenc | .cbcenc _ => false

/-- The decrypting mode commands. -/
def decryptsBuffer : Instr → Bool
  | .ecbdec | .cbcdec _ => true
  | .keyexp | .subbytes | .invsubbytes | .shiftrows | .invshiftrows | .mixcolumns | .invmixcolumns | .addrk _
  | .encblk | .decblk | .pad _ | .unpad | .ecbenc | .cbcenc _ => false

/-- The block size a command pads to; none for a command that does not pad. -/
def padsTo : Instr → Option Nat
  | .pad bs => some bs
  | .ecbenc | .cbcenc _ => some 16
  | .keyexp | .subbytes | .invsubbytes | .shiftrows | .invshiftrows | .mixcolumns | .invmixcolumns | .addrk _
  | .encblk | .decblk | .unpad | .ecbdec | .cbcdec _ => none

/-- The conditions of orders 2 to 7 of R233, in order, each with the error it reports. -/
def conditions (i : Instr) (s : State) : List (Prop × ErrCode) := [
  (needsSchedule i = true ∧ s.keyValid = false, .noKeySchedule),
  (i = .keyexp ∧ ¬(s.keylen.toNat = 16 ∨ s.keylen.toNat = 24 ∨ s.keylen.toNat = 32), .invalidKeyLength),
  ((∃ r, i = .addrk r ∧ s.nr < r), .roundIndexRange),
  (i = .pad 0, .invalidBlockSize),
  (readsIn i = true ∧ s.bufBytes < inLen s, .capacityExceeded),
  (unpads i = true ∧ inLen s = 0, .emptyInput),
  (decryptsBuffer i = true ∧ inLen s % 16 ≠ 0, .partialFinalBlock),
  ((∃ bs, padsTo i = some bs ∧ s.bufBytes < bs * (inLen s / bs + 1)), .capacityExceeded)]

/-- `e` is the error of the first condition of the list that holds. -/
def Reports : List (Prop × ErrCode) → ErrCode → Prop
  | [], _ => False
  | (c, e') :: rest, e => (c ∧ e = e') ∨ (¬c ∧ Reports rest e)

/-- No condition of the list holds. -/
def NoneHolds : List (Prop × ErrCode) → Prop
  | [] => True
  | (c, _) :: rest => ¬c ∧ NoneHolds rest

/-- The data whose padding a command checks, and the largest pad it accepts (order 8). -/
def checkedData (s : State) : Instr → List Byte
  | .ecbdec => ecbPlain s
  | .cbcdec z => cbcPlain s z
  | .keyexp | .subbytes | .invsubbytes | .shiftrows | .invshiftrows | .mixcolumns | .invmixcolumns | .addrk _
  | .encblk | .decblk | .pad _ | .unpad | .ecbenc | .cbcenc _ => inBytes s

def largestPad : Instr → Nat
  | .unpad => 255
  | .keyexp | .subbytes | .invsubbytes | .shiftrows | .invshiftrows | .mixcolumns | .invmixcolumns | .addrk _
  | .encblk | .decblk | .pad _ | .ecbenc | .ecbdec | .cbcenc _ | .cbcdec _ => 16

/-- Order 8 of R233: CTRL.STRICT_PAD = 1 and the strict check fails. -/
def PaddingFails (i : Instr) (s : State) : Prop :=
  unpads i = true ∧ s.strictPad = true ∧ ¬StrictOk (largestPad i) (checkedData s i)

/-- A command reads a byte of KEY, STATE or RK that is unwritten (10_state.md R42): STATE for the commands on STATE, KEY below
KEYLEN for KEYEXP (R24), round-key block `r` for ADDRK r (41_round_transform.md R126), RK up to block NR for the other
commands that need RK (43_block_cipher.md R165). -/
def UnwrittenRegister (i : Instr) (s : State) : Prop :=
  (writesState i = true ∧ ∃ j, j < 16 ∧ s.written .state j = false) ∨
  (i = .keyexp ∧ ∃ j, j < s.keylen.toNat ∧ s.written .key j = false) ∨
  (∃ r, i = .addrk r ∧ ∃ j, j < 16 ∧ s.written .rk (16 * r + j) = false) ∨
  (needsSchedule i = true ∧ (∀ r, i ≠ .addrk r) ∧ ∃ j, j < 16 * (s.nr + 1) ∧ s.written .rk j = false)

/-! ### Invariants -/

/-- KEY_VALID = 1 only while RK holds the schedule of the current KEY[0..KEYLEN), NK and NR its record (10_state.md R32). -/
def ScheduleCurrent (s : State) : Prop :=
  s.keyValid = true → ∃ cfg, keyConfig s.keylen.toNat = some cfg ∧ s.nk = cfg.nk ∧ s.nr = cfg.nr ∧
    ∀ i, i < 16 * (cfg.nr + 1) → s.written .rk i = true ∧
      s.readByte .rk i = (keyExpansion (s.keyOperand cfg.keyBytes) cfg.nk cfg.nr).getD i 0#8

/-- The legal values of the fields of STATUS, CTRL and ERRCMD (10_state.md R29 to R34, 60_exceptions.md R220, R222). -/
def FieldsLegal (s : State) : Prop :=
  s.status &&& statusReserved = 0#32 ∧ s.ctrl &&& 0xfffffffe#32 = 0#32 ∧
  ((s.nk = 0 ∧ s.nr = 0) ∨ (s.nk = 4 ∧ s.nr = 10) ∨ (s.nk = 6 ∧ s.nr = 12) ∨ (s.nk = 8 ∧ s.nr = 14)) ∧
  (s.keyValid = true → s.nr ≠ 0) ∧ s.err ≤ 10 ∧ s.err ≠ 2 ∧ (s.faulted = true ↔ s.err ≠ 0) ∧
  (s.faulted = false → s.errcmd = 0#32)

/-- The buffers are in canonical form inside a legal capacity, and OUT lists nothing at OUTLEN and above. -/
def BuffersCanonical (s : State) : Prop :=
  LegalCapacity s ∧ Memory.wf s.bufBytes s.inBuf = true ∧ Memory.wf s.bufBytes s.outBuf = true ∧
    s.outlen.toNat ≤ s.bufBytes ∧ ∀ i, s.written .outBuf i = true → i < s.outlen.toNat

end Sys2Proof.Claims
end

