-- ==== Sys2Proof/Certificates/Slice0/Obligations.lean ====
section
/-! DEFINITION. The statements about AES-CORE that the provers settle. Each docstring says which rule it formalises. -/

open Sys2Proof Sys2Proof.Machine Sys2Proof.Claims

/-! ### Encoding and decoding -/

/-- No bit of an encoding is dropped: every well-formed command is what its word decodes to (30_encoding.md R73, R77). -/
def Obligations.DecodeInvertsEncode : Prop :=
  ∀ i : Instr, i.wf = true → decode (encode i) = some i

/-- A word that decodes is THE word of its command, so ERRCMD holds the complete command word (30_encoding.md R73; log entry 9). -/
def Obligations.EncodeInvertsDecode : Prop :=
  ∀ (w : Word) (i : Instr), decode w = some i → encode i = w ∧ i.wf = true

/-- The opcode map and the formats: the words of each of the sixteen commands (30_encoding.md R71 to R74). -/
def Obligations.CommandWordsAreExactlyTheTable : Prop :=
  ∀ w : Word,
    (decode w = some .keyexp ↔ w.toNat = 0x01) ∧ (decode w = some .subbytes ↔ w.toNat = 0x10) ∧
    (decode w = some .invsubbytes ↔ w.toNat = 0x11) ∧ (decode w = some .shiftrows ↔ w.toNat = 0x12) ∧
    (decode w = some .invshiftrows ↔ w.toNat = 0x13) ∧ (decode w = some .mixcolumns ↔ w.toNat = 0x14) ∧
    (decode w = some .invmixcolumns ↔ w.toNat = 0x15) ∧
    (∀ r, decode w = some (.addrk r) ↔ r < 256 ∧ w.toNat = 256 * r + 0x16) ∧
    (decode w = some .encblk ↔ w.toNat = 0x20) ∧ (decode w = some .decblk ↔ w.toNat = 0x21) ∧
    (∀ bs, decode w = some (.pad bs) ↔ bs < 256 ∧ w.toNat = 256 * bs + 0x30) ∧
    (decode w = some .unpad ↔ w.toNat = 0x31) ∧ (decode w = some .ecbenc ↔ w.toNat = 0x40) ∧
    (decode w = some .ecbdec ↔ w.toNat = 0x41) ∧
    (∀ z : Bool, decode w = some (.cbcenc z) ↔ w.toNat = 256 * z.toNat + 0x42) ∧
    (∀ z : Bool, decode w = some (.cbcdec z) ↔ w.toNat = 256 * z.toNat + 0x43)

/-- The illegal words: RSV != 0, an unlisted OP, ARG != 0 in format N, ARG bits 7:1 != 0 in format Z (30_encoding.md R75). -/
def Obligations.IllegalWordsAreExactlyThese : Prop :=
  ∀ w : Word,
    let rsv := w.toNat / 65536
    let arg := w.toNat / 256 % 256
    let op := w.toNat % 256
    decode w = none ↔
      rsv ≠ 0 ∨
      op ∉ [0x01, 0x10, 0x11, 0x12, 0x13, 0x14, 0x15, 0x16, 0x20, 0x21, 0x30, 0x31, 0x40, 0x41, 0x42, 0x43] ∨
      (op ∈ [0x01, 0x10, 0x11, 0x12, 0x13, 0x14, 0x15, 0x20, 0x21, 0x31, 0x40, 0x41] ∧ arg ≠ 0) ∨
      (op ∈ [0x42, 0x43] ∧ arg / 2 ≠ 0)

/-- One word of each family, written out from the opcode map (95_test_vectors.md L2-D). -/
def Obligations.ExampleWordsDecode : Prop :=
  decode 0x00000001#32 = some .keyexp ∧ decode 0x00000013#32 = some .invshiftrows ∧
  decode 0x00000a16#32 = some (.addrk 10) ∧ decode 0x00000021#32 = some .decblk ∧
  decode 0x00001030#32 = some (.pad 16) ∧ decode 0x00000142#32 = some (.cbcenc true) ∧
  decode 0x00000043#32 = some (.cbcdec false) ∧ decode 0x00000000#32 = none ∧ decode 0x00008041#32 = none ∧
  decode 0x00000343#32 = none ∧ decode 0x80000016#32 = none

/-! ### The step -/

/-- A host write of a command's word to CMD runs that command, the operation being off the host's list and no reply
standing (10_state.md R20, R37; the list and the reply are the model's, log entries 7 and 8). -/
def Obligations.StepRunsTheDecodedCommand : Prop :=
  ∀ (s : State) (w : Word) (rest : List HostOp) (i : Instr),
    s.hostOps = .writeReg .cmd w :: rest → s.faulted = false → decode w = some i →
      step s = exec i (taken rest s)

/-- With no host operation to come the core holds its state (60_exceptions.md R242; log entry 7). -/
def Obligations.IdleCoreHoldsItsState : Prop :=
  ∀ s : State, s.hostOps = [] → step s = .next s

/-- The priority table of 60_exceptions.md R233, all nine orders, UnwrittenRead of IN between orders 7 and 8; and with no
condition holding the command completes without a fault. Two clauses are the model's choices: completion while bytes of
STATE, KEY or RK are unwritten, where R42 has a model fault (log entry 4; CheckedStepRaisesUnwrittenRead has R42's own
rule), and that the fault carries the first unwritten address (log entry 5). -/
def Obligations.FaultPriorityOrder : Prop :=
  ∀ (s : State) (w : Word) (rest : List HostOp), s.hostOps = .writeReg .cmd w :: rest →
    (s.faulted = true → step s = .next (taken rest s)) ∧
    (s.faulted = false → decode w = none →
      ∃ t, step s = .next t ∧ Recorded .illegalCommand w (taken rest s) t) ∧
    (s.faulted = false → ∀ i, decode w = some i →
      (∀ e, Reports (conditions i s) e → ∃ t, step s = .next t ∧ Recorded e w (taken rest s) t) ∧
      (NoneHolds (conditions i s) → readsIn i = true → ∀ a, a < inLen s → s.written .inBuf a = false →
        (∀ b, b < a → s.written .inBuf b = true) → step s = .fault (.unwrittenRead a)) ∧
      (NoneHolds (conditions i s) → InWritten s → PaddingFails i s →
        ∃ t, step s = .next t ∧ Recorded .paddingInvalid w (taken rest s) t) ∧
      (NoneHolds (conditions i s) → (readsIn i = true → InWritten s) → ¬PaddingFails i s →
        ∃ t, step s = .next t ∧ t.faulted = false ∧ t.errcmd = s.errcmd ∧ t.err = s.err))

/-- Fault entry is precise: a CMD write that faults writes FAULTED, ERR and ERRCMD = the word, and nothing else, whether
the word is illegal or its command found the condition (60_exceptions.md R231). That the error is never
INVALID_BLOCK_LENGTH is R222's derived sentence (log entry 20, DEDUCED). -/
def Obligations.FaultEntryWritesOnlyTheRecord : Prop :=
  ∀ (s t : State) (w : Word) (rest : List HostOp), s.hostOps = .writeReg .cmd w :: rest → s.faulted = false →
    step s = .next t → t.faulted = true →
      ∃ e, e ≠ .invalidBlockLength ∧ Recorded e w (taken rest s) t

/-- While FAULTED = 1 and until RESET, no command runs and the record does not change, whatever the host does
(10_state.md R33, 60_exceptions.md R232). -/
def Obligations.FaultIsStickyUntilReset : Prop :=
  ∀ (n : Nat) (s t : State), s.faulted = true → HostOp.reset ∉ s.hostOps → Sys2Proof.core.run n s = .next t →
    t.faulted = true ∧ t.err = s.err ∧ t.errcmd = s.errcmd ∧ t.rk = s.rk ∧ t.rkWritten = s.rkWritten ∧
    t.nk = s.nk ∧ t.nr = s.nr ∧ t.outBuf = s.outBuf ∧ t.outlen = s.outlen

/-- The error codes 1 to 10 by name (60_exceptions.md R220). -/
def Obligations.ErrorCodesAreTheTable : Prop :=
  ErrCode.code .invalidKeyLength = 1 ∧ ErrCode.code .invalidBlockLength = 2 ∧ ErrCode.code .partialFinalBlock = 3 ∧
  ErrCode.code .paddingInvalid = 4 ∧ ErrCode.code .illegalCommand = 5 ∧ ErrCode.code .noKeySchedule = 6 ∧
  ErrCode.code .roundIndexRange = 7 ∧ ErrCode.code .capacityExceeded = 8 ∧ ErrCode.code .emptyInput = 9 ∧
  ErrCode.code .invalidBlockSize = 10

/-- The fields of STATUS and CTRL lie where the tables of 10_state.md R29 and R30 put them. -/
def Obligations.ControlFieldsLieWhereTheTablesSay : Prop :=
  ∀ s : State,
    (s.faulted = true ↔ s.status.toNat % 2 = 1) ∧ (s.keyValid = true ↔ s.status.toNat / 2 % 2 = 1) ∧
    s.nk = s.status.toNat / 2 ^ 4 % 16 ∧ s.nr = s.status.toNat / 2 ^ 8 % 16 ∧ s.err = s.status.toNat / 2 ^ 16 % 256 ∧
    (s.strictPad = true ↔ s.ctrl.toNat % 2 = 1)

/-! ### Reset and the host interface -/

/-- RESET gives the reset table of 10_state.md R41, from every state; KEY, STATE, RK, IN and OUT are unwritten. -/
def Obligations.ResetGivesTheResetTable : Prop :=
  ∀ (s : State) (rest : List HostOp), s.hostOps = .reset :: rest →
    ∃ t, step s = .next t ∧ t.keylen = 0#8 ∧ (∀ i, i < 16 → t.readByte .iv i = 0#8) ∧ t.ctrl = 0#32 ∧
      t.status = 0#32 ∧ t.errcmd = 0#32 ∧ t.inlen = 0#32 ∧ t.outlen = 0#32 ∧
      (∀ a i, a ≠ .iv → i < t.size a → t.written a i = false) ∧ t.bufBytes = s.bufBytes ∧ t.hostOps = rest

/-- The power-on state is the reset table too (70_reset_and_hazards.md R250), with a legal capacity. -/
def Obligations.PowerOnGivesTheResetTable : Prop :=
  State.reset.keylen = 0#8 ∧ (∀ i, i < 16 → State.reset.readByte .iv i = 0#8) ∧ State.reset.ctrl = 0#32 ∧
  State.reset.status = 0#32 ∧ State.reset.errcmd = 0#32 ∧ State.reset.inlen = 0#32 ∧ State.reset.outlen = 0#32 ∧
  (∀ a i, a ≠ .iv → i < State.reset.size a → State.reset.written a i = false) ∧ LegalCapacity State.reset ∧
  State.reset.hostOps = []

/-- Host register writes (20_memory.md R53, R54; 10_state.md R25, R29): RW registers take the value truncated to their
width, RO registers ignore it, a write to KEYLEN clears KEY_VALID and nothing else of STATUS. -/
def Obligations.HostRegisterWritesFollowAccessRights : Prop :=
  ∀ (s : State) (r : ScalarReg) (v : Word) (rest : List HostOp), s.hostOps = .writeReg r v :: rest →
    (r = .keylen → ∃ t, step s = .next t ∧ t = { taken rest s with keylen := t.keylen, status := t.status } ∧
      t.keylen.toNat = v.toNat % 256 ∧ t.keyValid = false ∧ t.status ||| 2#32 = s.status ||| 2#32) ∧
    (r = .ctrl → ∃ t, step s = .next t ∧ t = { taken rest s with ctrl := t.ctrl } ∧ t.ctrl.toNat = v.toNat % 2) ∧
    (r = .inlen → step s = .next { taken rest s with inlen := v }) ∧
    (r = .status ∨ r = .errcmd ∨ r = .outlen → step s = .next (taken rest s))

/-- Host byte writes (20_memory.md R53, R54; 10_state.md R24, R42): a byte written is read back and is written from then
on, every other byte reads as before, no register but STATUS.KEY_VALID (for KEY) changes; RK and OUT ignore the write. -/
def Obligations.HostByteWriteIsReadBack : Prop :=
  ∀ (s : State) (a : ByteArr) (i : Nat) (b : Byte) (rest : List HostOp),
    s.hostOps = .writeByte a i b :: rest → i < s.size a →
      (a = .rk ∨ a = .outBuf → step s = .next (taken rest s)) ∧
      (a ≠ .rk → a ≠ .outBuf → ∃ t, step s = .next t ∧ t.written a i = true ∧ t.readByte a i = b ∧
        (∀ a' j, ¬(a' = a ∧ j = i) → t.written a' j = s.written a' j ∧ t.readByte a' j = s.readByte a' j) ∧
        t.keylen = s.keylen ∧ t.ctrl = s.ctrl ∧ t.errcmd = s.errcmd ∧ t.inlen = s.inlen ∧ t.outlen = s.outlen ∧
        t.bufBytes = s.bufBytes ∧ t.unwrittenRead = s.unwrittenRead ∧ t.draws = s.draws ∧ t.hostOps = rest ∧
        t.reply = none ∧
        (a = .key → t.keyValid = false ∧ t.status ||| 2#32 = s.status ||| 2#32) ∧ (a ≠ .key → t.status = s.status))

/-- Host reads return the register or the byte and change nothing (20_memory.md R53, R54, R56); CMD reads 0. -/
def Obligations.HostReadsChangeNothing : Prop :=
  ∀ (s : State) (rest : List HostOp),
    (∀ r, s.hostOps = .readReg r :: rest → ∃ v : Word,
      step s = .next { taken rest s with reply := some v } ∧
      (r = .keylen → v.toNat = s.keylen.toNat) ∧ (r = .ctrl → v = s.ctrl) ∧ (r = .status → v = s.status) ∧
      (r = .errcmd → v = s.errcmd) ∧ (r = .inlen → v = s.inlen) ∧ (r = .outlen → v = s.outlen) ∧ (r = .cmd → v = 0#32)) ∧
    (∀ a i, s.hostOps = .readByte a i :: rest → i < s.size a → ∃ v : Word,
      step s = .next { taken rest s with reply := some v } ∧ v.toNat = (s.readByte a i).toNat)

/-- A host byte access outside the array has no step (20_memory.md R54, 70_reset_and_hazards.md R266). -/
def Obligations.OutOfRangeAccessIsRefused : Prop :=
  ∀ (s : State) (a : ByteArr) (i : Nat) (b : Byte) (rest : List HostOp), s.size a ≤ i →
    (s.hostOps = .writeByte a i b :: rest ∨ s.hostOps = .readByte a i :: rest) →
      step s = .refused (.hostIndexOutOfRange a i)

/-! ### The Galois-field tables -/

/-- SBOX (40_gf_tables.md R101): the affine transform bit by bit with `c = 0x63`, which the spec marks as general knowledge
(G1; log entry 12, PRESUMED); `SBOX[x] = affine(x^-1)`, 0x63 at 0; a permutation without fixed point or complement point,
R101's derived sentence. -/
def Obligations.SboxIsTheAffineInverse : Prop :=
  (∀ (b : Byte) (i : Nat), i < 8 → (affine b).getLsbD i =
    (b.getLsbD i ^^ b.getLsbD ((i + 4) % 8) ^^ b.getLsbD ((i + 5) % 8) ^^ b.getLsbD ((i + 6) % 8) ^^
      b.getLsbD ((i + 7) % 8) ^^ (0x63#8).getLsbD i)) ∧
  sbox 0#8 = affine 0#8 ∧ affine 0#8 = 0x63#8 ∧
  (∀ x : Byte, x ≠ 0#8 → ∃ y : Byte, gmul x y = 1#8 ∧ sbox x = affine y) ∧
  (∀ x y : Byte, sbox x = sbox y → x = y) ∧ (∀ x : Byte, sbox x ≠ x ∧ sbox x ≠ x ^^^ 0xff#8) ∧ sbox 0x53#8 = 0xed#8

/-- INV_SBOX is the inverse permutation (40_gf_tables.md R102). -/
def Obligations.InvSboxInvertsSbox : Prop :=
  (∀ x : Byte, invSbox (sbox x) = x) ∧ (∀ x : Byte, sbox (invSbox x) = x) ∧
  invSbox 0x63#8 = 0x00#8 ∧ invSbox 0xed#8 = 0x53#8 ∧ invSbox 0x00#8 = 0x52#8

/-- `MULk[x] = gmul(x, k)` and the identities of 40_gf_tables.md R103. -/
def Obligations.MulTablesAreFieldProducts : Prop :=
  ∀ x : Byte,
    mul2 x = gmul x 2#8 ∧ mul3 x = gmul x 3#8 ∧ mul9 x = gmul x 9#8 ∧ mul11 x = gmul x 11#8 ∧
    mul13 x = gmul x 13#8 ∧ mul14 x = gmul x 14#8 ∧
    mul2 x = xtime x ∧ mul3 x = mul2 x ^^^ x ∧ mul9 x = xtime (xtime (xtime x)) ^^^ x ∧
    mul11 x = mul9 x ^^^ mul2 x ∧ mul13 x = mul9 x ^^^ xtime (xtime x) ∧ mul14 x = mul13 x ^^^ mul3 x

/-- GF(2^8) multiplication (40_gf_tables.md R100): `xtime` is multiplication by `x` modulo 0x11b, `gmul(a, b)` the XOR of
`xtime^j(a)` over the set bits `j` of `b`; commutative and associative, with 1 and 0, and every nonzero byte has exactly
one inverse, which R100 marks as derived. -/
def Obligations.GmulIsTheFieldProduct : Prop :=
  (∀ a : Byte, (xtime a).toNat = if 128 ≤ a.toNat then (2 * a.toNat) ^^^ 0x11b else 2 * a.toNat) ∧
  (∀ (a : Byte) (j : Nat), j < 8 → gmul a (1#8 <<< j) = Nat.iterate xtime j a) ∧
  (∀ a b c : Byte, gmul a (b ^^^ c) = gmul a b ^^^ gmul a c) ∧
  (∀ a b : Byte, gmul a b = gmul b a) ∧ (∀ a b c : Byte, gmul (gmul a b) c = gmul a (gmul b c)) ∧
  (∀ a : Byte, gmul a 1#8 = a ∧ gmul a 0#8 = 0#8) ∧
  (∀ a : Byte, a ≠ 0#8 → ∃ b : Byte, gmul a b = 1#8 ∧ ∀ c : Byte, gmul a c = 1#8 → c = b) ∧
  xtime 0x80#8 = 0x1b#8 ∧ gmul 0x53#8 0xca#8 = 1#8

/-- RCON is the ten-entry table of 40_gf_tables.md R105, which starts at 1 and doubles in GF(2^8). -/
def Obligations.RconDoublesInTheField : Prop :=
  (List.range 10).map rcon = [0x01#8, 0x02#8, 0x04#8, 0x08#8, 0x10#8, 0x20#8, 0x40#8, 0x80#8, 0x1b#8, 0x36#8] ∧
  rcon 0 = 0x01#8 ∧ ∀ j, j < 9 → rcon (j + 1) = xtime (rcon j)

/-! ### The round transform engine -/

/-- SUBBYTES and INVSUBBYTES (41_round_transform.md R120, R121): each byte is looked up, and only STATE changes. That they
complete on every live state, unwritten bytes of STATE included, is the model's choice, where R42 has a model fault (log
entry 4). -/
def Obligations.SubBytesCommandsSubstituteEachByte : Prop :=
  ∀ s : State, s.faulted = false →
    (∃ t, exec .subbytes s = .next t ∧ (∀ i, i < 16 → t.readByte .state i = sbox (s.readByte .state i)) ∧
      OnlyState s t) ∧
    (∃ t, exec .invsubbytes s = .next t ∧ (∀ i, i < 16 → t.readByte .state i = invSbox (s.readByte .state i)) ∧
      OnlyState s t)

/-- SHIFTROWS and INVSHIFTROWS as byte permutations (41_round_transform.md R122, R123). Completion on unwritten bytes of
STATE is the model's choice, where R42 has a model fault (log entry 4). -/
def Obligations.ShiftRowsCommandsPermuteBytes : Prop :=
  ∀ s : State, s.faulted = false →
    (∃ t, exec .shiftrows s = .next t ∧
      (∀ i, i < 16 → t.readByte .state i = s.readByte .state (shiftSource.getD i 0)) ∧ OnlyState s t) ∧
    (∃ t, exec .invshiftrows s = .next t ∧
      (∀ i, i < 16 → t.readByte .state i = s.readByte .state (invShiftSource.getD i 0)) ∧ OnlyState s t)

/-- MIXCOLUMNS and INVMIXCOLUMNS (41_round_transform.md R124, R125): each column times the matrix whose row `j` is
{2,3,1,1}, or {14,11,13,9}, rotated right by `j`, over GF(2^8). The direction of the matrices is general knowledge (G2; log
entry 12, PRESUMED). Completion on unwritten bytes of STATE is the model's choice, where R42 has a model fault (log
entry 4). -/
def Obligations.MixColumnsCommandsMultiplyColumns : Prop :=
  ∀ s : State, s.faulted = false →
    (∃ t, exec .mixcolumns s = .next t ∧
      (∀ r c, r < 4 → c < 4 → t.readByte .state (r + 4 * c) =
        circulantRow [2#8, 3#8, 1#8, 1#8] (fun k => s.readByte .state (k + 4 * c)) r) ∧ OnlyState s t) ∧
    (∃ t, exec .invmixcolumns s = .next t ∧
      (∀ r c, r < 4 → c < 4 → t.readByte .state (r + 4 * c) =
        circulantRow [14#8, 11#8, 13#8, 9#8] (fun k => s.readByte .state (k + 4 * c)) r) ∧ OnlyState s t)

/-- Each round step and its inverse undo one another on every block (41_round_transform.md R121, R123, R125). -/
def Obligations.RoundStepsAreMutuallyInverse : Prop :=
  ∀ b : Block,
    invSubBytes (subBytes b) = b ∧ subBytes (invSubBytes b) = b ∧ invShiftRows (shiftRows b) = b ∧
    shiftRows (invShiftRows b) = b ∧ invMixColumns (mixColumns b) = b ∧ mixColumns (invMixColumns b) = b

/-- ADDRK r (41_round_transform.md R126): with a valid schedule and `r` up to STATUS.NR, STATE is XORed with round-key
block `r`, and only STATE changes. Completion on unwritten bytes of STATE or RK is the model's choice, where R42 has a
model fault (log entry 4). -/
def Obligations.AddrkAddsTheRoundKey : Prop :=
  ∀ (s : State) (r : Nat), s.faulted = false → s.keyValid = true → r ≤ s.nr →
    ∃ t, exec (.addrk r) s = .next t ∧
      (∀ i, i < 16 → t.readByte .state i = s.readByte .state i ^^^ s.readByte .rk (16 * r + i)) ∧ OnlyState s t

/-- "applying `addrk r` twice restores STATE" (41_round_transform.md R126). Completion on unwritten bytes of STATE or RK is
the model's choice, where R42 has a model fault (log entry 4). -/
def Obligations.AddrkTwiceRestoresState : Prop :=
  ∀ (s : State) (r : Nat), s.faulted = false → s.keyValid = true → r ≤ s.nr →
    ∃ t u, exec (.addrk r) s = .next t ∧ exec (.addrk r) t = .next u ∧
      ∀ i, i < 16 → u.readByte .state i = s.readByte .state i

/-! ### The key schedule -/

/-- `Config(n)` (42_key_schedule.md R140): 16, 24 and 32 bytes select `Nk = n / 4`, `Nr = Nk + 6`; no other length
selects a record. -/
def Obligations.KeyLengthSelectsTheConfiguration : Prop :=
  ∀ (n : Nat) (cfg : KeyConfig),
    keyConfig n = some cfg ↔ (n = 16 ∨ n = 24 ∨ n = 32) ∧ cfg = ⟨n, n / 4, n / 4 + 6⟩

/-- KEYEXP (42_key_schedule.md R141, R142) on every live state with a legal KEYLEN: the first words of RK are the key, every
later word obeys the recurrence, RK[16*(Nr+1)..240) is unspecified, NK, NR and KEY_VALID are set, nothing else changes.
Completion on unwritten bytes of KEY below KEYLEN is the model's choice, where R42 has a model fault (log entry 4). -/
def Obligations.KeyexpLoadsTheSchedule : Prop :=
  ∀ (s : State) (n : Nat), s.faulted = false → s.keylen.toNat = n → (n = 16 ∨ n = 24 ∨ n = 32) →
    ∃ t, exec .keyexp s = .next t ∧ t.keyValid = true ∧ t.nk = n / 4 ∧ t.nr = n / 4 + 6 ∧
      (∀ i, i < n → t.readByte .rk i = s.readByte .key i) ∧
      (∀ i, n / 4 ≤ i → i < 4 * (n / 4 + 6 + 1) → ScheduleStep (n / 4) (rkWord t) i) ∧
      (∀ i, t.written .rk i = decide (i < 16 * (n / 4 + 6 + 1))) ∧ OnlySchedule s t

/-- "bytes at index KEYLEN and above are ignored by every command" (10_state.md R24): KEYEXP answers alike on two states
that differ only there. -/
def Obligations.KeyexpIgnoresKeyBytesAboveKeylen : Prop :=
  ∀ (s : State) (key' : Vector Byte 32) (kw' : Vector Bool 32) (t : State),
    (∀ i, i < s.keylen.toNat → byteAt key' i = byteAt s.key i ∧ flagAt kw' i = flagAt s.keyWritten i) →
    exec .keyexp s = .next t →
      exec .keyexp { s with key := key', keyWritten := kw' } = .next { t with key := key', keyWritten := kw' }

/-- A stale schedule is never valid (10_state.md R32): while KEY_VALID = 1, RK is the schedule of the current KEY and
KEYLEN; every step of every host operation keeps that. -/
def Obligations.KeyValidMeansCurrentSchedule : Prop :=
  ∀ s t : State, ScheduleCurrent s → step s = .next t → ScheduleCurrent t

/-! ### The block cipher -/

/-- ENCBLK is the loop of 43_block_cipher.md R160 on STATE, with RK's blocks and NR rounds (R162). Completion on unwritten
bytes of STATE or RK is the model's choice, where R42 has a model fault (log entry 4). -/
def Obligations.EncblkIsTheCipher : Prop :=
  ∀ s : State, s.faulted = false → s.keyValid = true →
    ∃ t, exec .encblk s = .next t ∧
      (∀ i, i < 16 → t.readByte .state i =
        byteAt (cipherLoop (fun r => blockAt s .rk (16 * r)) s.nr (blockAt s .state 0)) i) ∧ OnlyState s t

/-- DECBLK is the loop of 43_block_cipher.md R161 (R163). Completion on unwritten bytes of STATE or RK is the model's choice,
where R42 has a model fault (log entry 4). -/
def Obligations.DecblkIsTheInverseCipher : Prop :=
  ∀ s : State, s.faulted = false → s.keyValid = true →
    ∃ t, exec .decblk s = .next t ∧
      (∀ i, i < 16 → t.readByte .state i =
        byteAt (invCipherLoop (fun r => blockAt s .rk (16 * r)) s.nr (blockAt s .state 0)) i) ∧ OnlyState s t

/-- The inverse law (43_block_cipher.md R164, marked derived there), for every schedule whatever its bytes and every round
count. -/
def Obligations.BlockCipherIsInvertible : Prop :=
  ∀ (rk : Nat → Block) (nr : Nat) (b : Block),
    invCipher rk nr (cipher rk nr b) = b ∧ cipher rk nr (invCipher rk nr b) = b

/-- "`encblk; decblk` and `decblk; encblk` leave STATE unchanged" (43_block_cipher.md R163). Completion on unwritten bytes of
STATE or RK is the model's choice, where R42 has a model fault (log entry 4). -/
def Obligations.DecblkUndoesEncblk : Prop :=
  ∀ s : State, s.faulted = false → s.keyValid = true →
    (∃ t u, exec .encblk s = .next t ∧ exec .decblk t = .next u ∧
      ∀ i, i < 16 → u.readByte .state i = s.readByte .state i) ∧
    (∃ t u, exec .decblk s = .next t ∧ exec .encblk t = .next u ∧
      ∀ i, i < 16 → u.readByte .state i = s.readByte .state i)

/-- The round commands compose to ENCBLK (30_encoding.md R79): the run of `addrk 0`, `round 1` ... `round Nr-1`,
`finalround Nr`, command word by command word through the step, leaves the STATE that ENCBLK leaves. Completion on unwritten
bytes of STATE or RK is the model's choice, where R42 has a model fault (log entry 4). -/
def Obligations.RoundCommandsComposeToEncblk : Prop :=
  ∀ s : State, s.faulted = false → s.keyValid = true →
    ∃ t u, runOps s (programOps (encryptRoundsProgram s.nr)) = .next t ∧ exec .encblk s = .next u ∧
      (∀ i, i < 16 → t.readByte .state i = u.readByte .state i) ∧ t.status = s.status ∧ t.rk = s.rk ∧
      t.outBuf = s.outBuf

/-- The inverse round commands compose to DECBLK (43_block_cipher.md R161, 30_encoding.md R79). Completion on unwritten bytes
of STATE or RK is the model's choice, where R42 has a model fault (log entry 4). -/
def Obligations.InverseRoundCommandsComposeToDecblk : Prop :=
  ∀ s : State, s.faulted = false → s.keyValid = true →
    ∃ t u, runOps s (programOps (decryptRoundsProgram s.nr)) = .next t ∧ exec .decblk s = .next u ∧
      (∀ i, i < 16 → t.readByte .state i = u.readByte .state i) ∧ t.status = s.status ∧ t.rk = s.rk ∧
      t.outBuf = s.outBuf

/-! ### Padding -/

/-- PAD bs (44_padding.md R181, R184): OUT is IN[0..INLEN) followed by `bs - (INLEN mod bs)` bytes of that value. -/
def Obligations.PadAppendsPkcs7 : Prop :=
  ∀ (s : State) (bs : Nat), s.faulted = false → LegalCapacity s → 1 ≤ bs → bs ≤ 255 → InWritten s →
    bs * (inLen s / bs + 1) ≤ s.bufBytes →
      ∃ t, exec (.pad bs) s = .next t ∧ t.outlen.toNat = bs * (inLen s / bs + 1) ∧
        (∀ i, i < inLen s → t.readByte .outBuf i = s.readByte .inBuf i) ∧
        (∀ i, inLen s ≤ i → i < t.outlen.toNat → (t.readByte .outBuf i).toNat = bs - inLen s % bs) ∧
        t.outlen.toNat = inLen s + (bs - inLen s % bs) ∧ OnlyOut s t

/-- UNPAD (44_padding.md R182, R183, R185): permissive truncation, or the strict check with `pmax = 255`. -/
def Obligations.UnpadRemovesPadding : Prop :=
  ∀ s : State, s.faulted = false → LegalCapacity s → InWritten s → inLen s ≤ s.bufBytes → 0 < inLen s →
    ∃ t, exec .unpad s = .next t ∧ RemovesPadding 0x00000031#32 255 (inBytes s) s t

/-- Padding is removed exactly (44_padding.md R186), in either mode. -/
def Obligations.PaddingRoundTrip : Prop :=
  ∀ (d : List Byte) (bs pmax : Nat), 1 ≤ bs → bs ≤ 255 → bs ≤ pmax →
    unpadPermissive (padBytes d bs) = d ∧ unpadStrict (padBytes d bs) pmax = some d

/-- On whole blocks the strict check with `pmax = 16` accepts exactly the outputs of `Pad(·, 16)` (44_padding.md R183,
92_eei_decisions.md D15). -/
def Obligations.StrictRemovalAcceptsExactlyPaddedData : Prop :=
  ∀ d u : List Byte, d.length % 16 = 0 → (unpadStrict d 16 = some u ↔ d = padBytes u 16)

/-! ### Chaining modes -/

/-- ECBENC (45_modes.md R201): block `k` of OUT is the encryption of padded block `k`. -/
def Obligations.EcbencEncryptsEachBlock : Prop :=
  ∀ s : State, EncryptReady s →
    ∃ t, exec .ecbenc s = .next t ∧ t.outlen.toNat = 16 * (inLen s / 16 + 1) ∧
      (∀ k, k ≤ inLen s / 16 → blockAt t .outBuf (16 * k) = s.encryptBlock (paddedBlock s k)) ∧ OnlyOut s t

/-- ECBDEC (45_modes.md R202): each block decrypted, then padding removal with `pmax = 16`. -/
def Obligations.EcbdecDecryptsEachBlock : Prop :=
  ∀ s : State, DecryptReady s →
    ∃ t, exec .ecbdec s = .next t ∧ RemovesPadding 0x00000041#32 16 (ecbPlain s) s t

/-- CBCENC (45_modes.md R203): `C[0] = Encrypt(P[0] XOR IV)`, `C[i] = Encrypt(P[i] XOR C[i-1])`; IV is not written. -/
def Obligations.CbcencChainsTheCiphertext : Prop :=
  ∀ (s : State) (z : Bool), EncryptReady s →
    ∃ t, exec (.cbcenc z) s = .next t ∧ t.outlen.toNat = 16 * (inLen s / 16 + 1) ∧
      (∀ k, k ≤ inLen s / 16 → blockAt t .outBuf (16 * k) =
        s.encryptBlock (xorBlock (paddedBlock s k)
          (if k = 0 then ivBlock s z else blockAt t .outBuf (16 * (k - 1))))) ∧ OnlyOut s t

/-- CBCDEC (45_modes.md R204): `P[0] = Decrypt(C[0]) XOR IV`, `P[i] = Decrypt(C[i]) XOR C[i-1]`, then padding removal. -/
def Obligations.CbcdecChainsTheCiphertext : Prop :=
  ∀ (s : State) (z : Bool), DecryptReady s →
    ∃ t, exec (.cbcdec z) s = .next t ∧
      RemovesPadding (if z then 0x00000143#32 else 0x00000043#32) 16 (cbcPlain s z) s t

/-- ECB encrypts equal blocks equally, and only those; under CBC blocks come out equal exactly when their chained inputs
coincide (45_modes.md R205). -/
def Obligations.EqualBlocksUnderEcbAndCbc : Prop :=
  ∀ (s : State) (z : Bool) (j k : Nat), EncryptReady s → j ≤ inLen s / 16 → k ≤ inLen s / 16 →
    (∃ t, exec .ecbenc s = .next t ∧
      (blockAt t .outBuf (16 * j) = blockAt t .outBuf (16 * k) ↔ paddedBlock s j = paddedBlock s k)) ∧
    (∃ t, exec (.cbcenc z) s = .next t ∧
      (blockAt t .outBuf (16 * j) = blockAt t .outBuf (16 * k) ↔
        xorBlock (paddedBlock s j) (if j = 0 then ivBlock s z else blockAt t .outBuf (16 * (j - 1))) =
        xorBlock (paddedBlock s k) (if k = 0 then ivBlock s z else blockAt t .outBuf (16 * (k - 1)))))

/-- ECB round trip (45_modes.md R206): ECBDEC of what ECBENC left in OUT gives the input back, with either value of
CTRL.STRICT_PAD, whatever else stands in IN. -/
def Obligations.EcbRoundTrip : Prop :=
  ∀ (s : State) (m : Memory) (ctrl' : Word), EncryptReady s →
    ∃ t, exec .ecbenc s = .next t ∧
      ((∀ i, i < t.outlen.toNat → m.read i = some (t.readByte .outBuf i)) →
        ∃ u, exec .ecbdec { t with inBuf := m, inlen := t.outlen, ctrl := ctrl' } = .next u ∧
          u.outlen = s.inlen ∧ ∀ i, i < inLen s → u.readByte .outBuf i = s.readByte .inBuf i)

/-- CBC round trip (45_modes.md R206), for either selection of the IV, the same on both sides. -/
def Obligations.CbcRoundTrip : Prop :=
  ∀ (s : State) (z : Bool) (m : Memory) (ctrl' : Word), EncryptReady s →
    ∃ t, exec (.cbcenc z) s = .next t ∧
      ((∀ i, i < t.outlen.toNat → m.read i = some (t.readByte .outBuf i)) →
        ∃ u, exec (.cbcdec z) { t with inBuf := m, inlen := t.outlen, ctrl := ctrl' } = .next u ∧
          u.outlen = s.inlen ∧ ∀ i, i < inLen s → u.readByte .outBuf i = s.readByte .inBuf i)

/-- CBC error propagation (45_modes.md R207), on the decrypted blocks before padding removal: changing ciphertext block
`i` changes block `i`, changes block `i+1` by exactly the same XOR, and no other block. -/
def Obligations.CbcErrorPropagation : Prop :=
  ∀ (rk : Nat → Block) (nr : Nat) (prev c' : Block) (cs : List Block) (i : Nat) (hi : i < cs.length), cs[i] ≠ c' →
    let q := cbcDecrypt (invCipher rk nr) prev cs
    let q' := cbcDecrypt (invCipher rk nr) prev (cs.set i c')
    q'.length = q.length ∧ q'[i]? ≠ q[i]? ∧
    q'[i + 1]? = q[i + 1]?.map (fun b => xorBlock b (xorBlock cs[i] c')) ∧
    ∀ k, k ≠ i → k ≠ i + 1 → q'[k]? = q[k]?

/-- Decrypting with another IV changes only the first block, by the XOR of the two (45_modes.md R204). -/
def Obligations.CbcIvAffectsOnlyTheFirstBlock : Prop :=
  ∀ (d : Block → Block) (iv iv' : Block) (cs : List Block),
    (cbcDecrypt d iv' cs)[0]? = (cbcDecrypt d iv cs)[0]?.map (fun b => xorBlock b (xorBlock iv iv')) ∧
    ∀ k, (cbcDecrypt d iv' cs)[k + 1]? = (cbcDecrypt d iv cs)[k + 1]?

/-- With ZIV = 1 a CBC command uses the all-zero block "whatever IV holds" (10_state.md R26): its effect does not depend
on IV, and IV is not written. -/
def Obligations.ZivIgnoresTheIvRegister : Prop :=
  ∀ (s t : State) (iv' : Block),
    (exec (.cbcenc true) s = .next t → exec (.cbcenc true) { s with iv := iv' } = .next { t with iv := iv' }) ∧
    (exec (.cbcdec true) s = .next t → exec (.cbcdec true) { s with iv := iv' } = .next { t with iv := iv' })

/-! ### Whole-machine rules -/

/-- The "written by" column of 10_state.md R21, for every command that answers a next state. -/
def Obligations.CommandsWriteOnlyTheirRegisters : Prop :=
  ∀ (i : Instr) (s t : State), exec i s = .next t →
    (t.key = s.key ∧ t.keyWritten = s.keyWritten ∧ t.keylen = s.keylen ∧ t.iv = s.iv ∧ t.ctrl = s.ctrl ∧
      t.inlen = s.inlen ∧ t.inBuf = s.inBuf ∧ t.bufBytes = s.bufBytes ∧ t.hostOps = s.hostOps ∧ t.reply = s.reply) ∧
    (writesState i = false → t.state = s.state ∧ t.stateWritten = s.stateWritten) ∧
    (i ≠ .keyexp → t.rk = s.rk ∧ t.rkWritten = s.rkWritten ∧ t.nk = s.nk ∧ t.nr = s.nr ∧ t.keyValid = s.keyValid) ∧
    (readsIn i = false → t.outBuf = s.outBuf ∧ t.outlen = s.outlen) ∧
    (t.faulted = s.faulted → t.errcmd = s.errcmd ∧ t.err = s.err) ∧
    (t.faulted = s.faulted → i ≠ .keyexp → t.status = s.status)

/-- A command reads IN[0..INLEN) "and no other byte of IN" (10_state.md R35): bytes above INLEN change no outcome. -/
def Obligations.InBytesAboveInlenAreIgnored : Prop :=
  ∀ (i : Instr) (s t : State) (m : Memory), (∀ a, a < inLen s → m.read a = s.inBuf.read a) →
    exec i s = .next t → exec i { s with inBuf := m } = .next { t with inBuf := m }

/-- UnwrittenRead is recorded when, and only when, a completed command had an unwritten byte of STATE, KEY or RK among its
operands (10_state.md R42, R27, R35): PAD and UNPAD read none of the three, and the mode commands read RK alone (45_modes.md
R200). The record, where R42 has a model fault, is the model's choice (log entry 4). -/
def Obligations.UnwrittenReadIsRecorded : Prop :=
  ∀ (s t : State) (i : Instr), s.faulted = false → exec i s = .next t → t.faulted = false →
    (UnwrittenRegister i s → t.unwrittenRead = true) ∧
    (¬UnwrittenRegister i s → t.unwrittenRead = s.unwrittenRead)

/-- The fields of STATUS, CTRL and ERRCMD keep their legal values on every step (10_state.md R29 to R34, 60_exceptions.md
R220, R222: code 2 is never recorded). -/
def Obligations.FieldsStayLegal : Prop :=
  ∀ s t : State, FieldsLegal s → step s = .next t → FieldsLegal t

/-- IN and OUT keep their canonical form inside BUF_BYTES, and OUT lists nothing beyond OUTLEN, on every step
(20_memory.md R51, 10_state.md R36; the canonical form is the model's). -/
def Obligations.BuffersStayCanonical : Prop :=
  ∀ s t : State, BuffersCanonical s → step s = .next t → BuffersCanonical t

/-- The three invariants hold after power-on. -/
def Obligations.InvariantsHoldAtPowerOn : Prop :=
  FieldsLegal State.reset ∧ BuffersCanonical State.reset ∧ ScheduleCurrent State.reset

/-! ### The checked machine -/

/-- On the checked machine a command that passes orders 0 to 7 of 60_exceptions.md R233 and has an unwritten operand byte is
the model fault UnwrittenRead of 10_state.md R42, before any PADDING_INVALID; every other operation is the machine's step.
That the two machines stand side by side is the model's choice (log entry 4), as is the byte a fault names (log entry 5). -/
def Obligations.CheckedStepRaisesUnwrittenRead : Prop :=
  ∀ s : State,
    ((∀ w rest, s.hostOps ≠ .writeReg .cmd w :: rest) → checkedStep s = step s) ∧
    (∀ w rest, s.hostOps = .writeReg .cmd w :: rest →
      (s.faulted = true ∨ decode w = none → checkedStep s = step s) ∧
      (s.faulted = false → ∀ i, decode w = some i →
        (∀ e, Reports (conditions i s) e → checkedStep s = step s) ∧
        (NoneHolds (conditions i s) → readsIn i = true → ¬InWritten s →
          ∃ a, a < inLen s ∧ s.written .inBuf a = false ∧ checkedStep s = .fault (.unwrittenRead a)) ∧
        (NoneHolds (conditions i s) → (readsIn i = true → InWritten s) → UnwrittenRegister i s →
          ∃ a j, s.written a j = false ∧ checkedStep s = .fault (.unwrittenRegister a j)) ∧
        (NoneHolds (conditions i s) → (readsIn i = true → InWritten s) → ¬UnwrittenRegister i s →
          checkedStep s = step s ∧ ∃ t, step s = .next t ∧ t.unwrittenRead = s.unwrittenRead)))
end

