-- ==== Sys2Proof/Laws/Bytes.lean ====
section
/-! SUPPORT. Reading back the bytes of arrays and blocks, and extensionality by index. -/

namespace Sys2Proof.Machine

theorem byteAt_buildBytes {n : Nat} (f : Nat → Byte) {i : Nat} (h : i < n) : byteAt (buildBytes n f) i = f i := by
  simp [byteAt, buildBytes, h]

theorem byteAt_setIfInBounds {n : Nat} (v : Vector Byte n) (i j : Nat) (b : Byte) (hi : i < n) :
    byteAt (v.setIfInBounds i b) j = if i = j then b else byteAt v j := by
  simp only [byteAt, Vector.getElem?_setIfInBounds]
  split <;> simp [*]

theorem flagAt_setIfInBounds {n : Nat} (v : Vector Bool n) (i j : Nat) (b : Bool) (hi : i < n) :
    flagAt (v.setIfInBounds i b) j = if i = j then b else flagAt v j := by
  simp only [flagAt, Vector.getElem?_setIfInBounds]
  split <;> simp [*]

theorem flagAt_replicate {n : Nat} (b : Bool) {i : Nat} (h : i < n) : flagAt (Vector.replicate n b) i = b := by
  simp [flagAt, h]

theorem byteAt_replicate_zero (n i : Nat) : byteAt (Vector.replicate n 0#8) i = 0#8 := by
  by_cases h : i < n <;> simp [byteAt, h]

/-- Two arrays of the same length with the same bytes are equal. -/
theorem bytes_ext {n : Nat} {a b : Vector Byte n} (h : ∀ i, i < n → byteAt a i = byteAt b i) : a = b := by
  apply Vector.ext
  intro i hi
  have := h i hi
  simpa only [byteAt, Vector.getElem?_eq_getElem hi, Option.getD_some] using this

theorem block_ext {a b : Block} (h : ∀ i, i < 16 → byteAt a i = byteAt b i) : a = b := bytes_ext h

theorem byteAt_blockBuild (f : Nat → Byte) {i : Nat} (h : i < 16) : byteAt (blockBuild f) i = f i :=
  byteAt_buildBytes f h

theorem byteAt_blockOfMatrix (f : Nat → Nat → Byte) {i : Nat} (h : i < 16) :
    byteAt (blockOfMatrix f) i = f (i % 4) (i / 4) := byteAt_blockBuild _ h

/-- The entry at row `r`, column `c` of a block given by its matrix (R14). -/
theorem entry_blockOfMatrix (f : Nat → Nat → Byte) {r c : Nat} (hr : r < 4) (hc : c < 4) :
    entry (blockOfMatrix f) r c = f r c := by
  rw [entry, byteAt_blockOfMatrix _ (by omega)]
  congr 1 <;> omega

/-- Two blocks with the same matrix are equal. -/
theorem matrix_ext {a b : Block} (h : ∀ r c, r < 4 → c < 4 → entry a r c = entry b r c) : a = b := by
  apply block_ext
  intro i hi
  have := h (i % 4) (i / 4) (by omega) (by omega)
  simp only [entry] at this
  rwa [show i % 4 + 4 * (i / 4) = i by omega] at this

theorem byteAt_xorBlock (a b : Block) {i : Nat} (h : i < 16) :
    byteAt (xorBlock a b) i = byteAt a i ^^^ byteAt b i := byteAt_blockBuild _ h

theorem xorBlock_cancel (a b : Block) : xorBlock (xorBlock a b) b = a := by
  apply block_ext
  intro i h
  rw [byteAt_xorBlock _ _ h, byteAt_xorBlock _ _ h, BitVec.xor_assoc, BitVec.xor_self, BitVec.xor_zero]

theorem xorBlock_comm (a b : Block) : xorBlock a b = xorBlock b a := by
  apply block_ext
  intro i h
  rw [byteAt_xorBlock _ _ h, byteAt_xorBlock _ _ h, BitVec.xor_comm]

theorem byteAt_blockOfBytes (l : List Byte) {i : Nat} (h : i < 16) : byteAt (blockOfBytes l) i = l.getD i 0#8 :=
  byteAt_blockBuild _ h

@[simp] theorem length_blockBytes (b : Block) : (blockBytes b).length = 16 := by simp [blockBytes]

theorem getD_blockBytes (b : Block) {i : Nat} (h : i < 16) : (blockBytes b).getD i 0#8 = byteAt b i := by
  simp [blockBytes, h]

/-- A block is its bytes. -/
theorem blockOfBytes_blockBytes (b : Block) (l : List Byte) : blockOfBytes (blockBytes b ++ l) = b := by
  apply block_ext
  intro i h
  rw [byteAt_blockOfBytes _ h, List.getD_append _ _ _ _ (by simpa using h), getD_blockBytes _ h]

/-- The bytes of the first block of a long enough sequence are its first 16 bytes. -/
theorem blockBytes_blockOfBytes (l : List Byte) (h : 16 ≤ l.length) : blockBytes (blockOfBytes l) = l.take 16 := by
  apply List.ext_getElem
  · simp [h]
  · intro i h1 h2
    have hi : i < 16 := by simpa using h1
    simp only [blockBytes, List.getElem_map, List.getElem_range, List.getElem_take]
    rw [byteAt_blockOfBytes _ hi, List.getD_eq_getElem _ _ (by omega)]

/-! ### Splitting a sequence into blocks and joining them (R200 (a)) -/

@[simp] theorem length_blocksOf (m : Nat) (x : List Byte) : (blocksOf m x).length = m := by
  induction m generalizing x with
  | zero => rfl
  | succ m ih => simp [blocksOf, ih]

theorem length_joinBlocks (bs : List Block) : (joinBlocks bs).length = 16 * bs.length := by
  induction bs with
  | nil => rfl
  | cons b bs ih => simp only [joinBlocks, List.flatMap_cons, List.length_append] at *; simp [ih]; omega

/-- Byte `16k + j` of joined blocks is byte `j` of block `k`. -/
theorem getD_joinBlocks (bs : List Block) (k j : Nat) (hk : k < bs.length) (hj : j < 16) :
    (joinBlocks bs).getD (16 * k + j) 0#8 = byteAt bs[k] j := by
  induction bs generalizing k with
  | nil => simp at hk
  | cons b bs ih =>
    simp only [joinBlocks, List.flatMap_cons]
    cases k with
    | zero => rw [List.getD_append _ _ _ _ (by simpa using hj)]; simpa using getD_blockBytes b hj
    | succ k =>
      rw [List.getD_append_right _ _ _ _ (by simp; omega), length_blockBytes,
        show 16 * (k + 1) + j - 16 = 16 * k + j by omega]
      exact ih k (by simpa using hk)

/-- Splitting what was joined gives the blocks back. -/
theorem blocksOf_joinBlocks (bs : List Block) : blocksOf bs.length (joinBlocks bs) = bs := by
  induction bs with
  | nil => rfl
  | cons b bs ih =>
    simp only [List.length_cons, blocksOf, joinBlocks, List.flatMap_cons, blockOfBytes_blockBytes]
    rw [List.drop_append_of_le_length (by simp), List.drop_of_length_le (by simp)]
    simpa [joinBlocks] using ih

theorem splitBlocks_joinBlocks (bs : List Block) : splitBlocks (joinBlocks bs) = bs := by
  rw [splitBlocks, length_joinBlocks, Nat.mul_div_cancel_left _ (by omega), blocksOf_joinBlocks]

/-- Joining the blocks of a sequence of whole blocks gives the sequence back. -/
theorem joinBlocks_blocksOf (m : Nat) (x : List Byte) (h : x.length = 16 * m) : joinBlocks (blocksOf m x) = x := by
  induction m generalizing x with
  | zero => have : x = [] := List.length_eq_zero_iff.mp (by omega); subst this; rfl
  | succ m ih =>
    have := ih (x.drop 16) (by simp; omega)
    simp only [joinBlocks, blocksOf, List.flatMap_cons] at *
    rw [this, blockBytes_blockOfBytes _ (by omega), List.take_append_drop]

theorem joinBlocks_splitBlocks (x : List Byte) (h : x.length % 16 = 0) : joinBlocks (splitBlocks x) = x :=
  joinBlocks_blocksOf _ _ (by omega)

/-- Byte `j` of block `k` of a sequence is its byte `16k + j`. -/
theorem byteAt_blocksOf (m : Nat) (x : List Byte) (k j : Nat) (hk : k < m) (hj : j < 16) :
    byteAt ((blocksOf m x)[k]'(by simpa using hk)) j = x.getD (16 * k + j) 0#8 := by
  induction m generalizing x k with
  | zero => omega
  | succ m ih =>
    cases k with
    | zero => simpa [blocksOf] using byteAt_blockOfBytes x hj
    | succ k =>
      simp only [blocksOf, List.getElem_cons_succ]
      rw [ih (x.drop 16) k (by omega)]
      simp only [List.getD_eq_getElem?_getD, List.getElem?_drop]
      congr 2
      omega

end Sys2Proof.Machine
end

