-- ==== Sys2Proof/Laws/KeySchedule.lean ====
section
/-! SUPPORT. The key schedule word by word: its length, its first words, the recurrence of every later word
(42_key_schedule.md R141), and which length selects which configuration (R140). -/

namespace Sys2Proof.Machine

theorem length_expandWords (nk n i : Nat) (ws : List KeyWord) : (expandWords nk n i ws).length = ws.length + n := by
  induction n generalizing i ws with
  | zero => rfl
  | succ n ih => simp only [expandWords, ih, List.length_cons]; omega

/-- Later words come in front; the words so far stay. -/
theorem expandWords_suffix (nk n i : Nat) (ws : List KeyWord) : ∃ l, expandWords nk n i ws = l ++ ws := by
  induction n generalizing i ws with
  | zero => exact ⟨[], rfl⟩
  | succ n ih =>
    obtain ⟨l, hl⟩ := ih (i + 1) (nextWord nk i ws :: ws)
    exact ⟨l ++ [nextWord nk i ws], by simp [expandWords, hl]⟩

/-- Every expanded word obeys the recurrence, read in the oldest-first order. -/
theorem getD_reverse_expandWords (nk n i : Nat) (ws : List KeyWord) (hw : ws.length = i) (hnk : 0 < nk) (hnki : nk ≤ i)
    (j : Nat) (h1 : i ≤ j) (h2 : j < i + n) :
    (expandWords nk n i ws).reverse.getD j .zero =
      (scheduleTemp nk j ((expandWords nk n i ws).reverse.getD (j - 1) .zero)).xor
        ((expandWords nk n i ws).reverse.getD (j - nk) .zero) := by
  induction n generalizing i ws with
  | zero => omega
  | succ n ih =>
    by_cases hj : j = i
    · subst hj
      obtain ⟨l, hl⟩ := expandWords_suffix nk n (j + 1) (nextWord nk j ws :: ws)
      have hL : (expandWords nk (n + 1) j ws).reverse = ws.reverse ++ nextWord nk j ws :: l.reverse := by
        simp [expandWords, hl]
      have hg : ∀ k, k < j → (ws.reverse ++ nextWord nk j ws :: l.reverse).getD k .zero = ws.getD (j - 1 - k) .zero := by
        intro k hk
        rw [List.getD_append _ _ _ _ (by simp; omega), List.getD_eq_getElem _ _ (by simp; omega),
          List.getD_eq_getElem _ _ (by omega), List.getElem_reverse]
        congr 1
        omega
      rw [hL, hg (j - 1) (by omega), hg (j - nk) (by omega), List.getD_append_right _ _ _ _ (by simp; omega)]
      simp only [List.length_reverse, hw, Nat.sub_self, List.getD_cons_zero, nextWord]
      congr 2
      omega
    · exact ih (i + 1) _ (by simp [hw]) (by omega) (by omega) (by omega)

theorem length_flatMap_bytes (ws : List KeyWord) : (ws.flatMap KeyWord.bytes).length = 4 * ws.length := by
  induction ws with
  | nil => rfl
  | cons w ws ih =>
    simp only [List.flatMap_cons, List.length_append, ih, List.length_cons, KeyWord.bytes, List.length_nil]
    omega

/-- Byte `k` of word `i` of a sequence of words. -/
theorem getD_flatMap_bytes (ws : List KeyWord) (i k : Nat) (hi : i < ws.length) (hk : k < 4) :
    (ws.flatMap KeyWord.bytes).getD (4 * i + k) 0#8 = (ws[i].bytes).getD k 0#8 := by
  induction ws generalizing i with
  | nil => simp at hi
  | cons w ws ih =>
    have hb : w.bytes.length = 4 := rfl
    simp only [List.flatMap_cons]
    cases i with
    | zero => rw [List.getD_append _ _ _ _ (by omega)]; simp
    | succ i =>
      rw [List.getD_append_right _ _ _ _ (by omega), hb, show 4 * (i + 1) + k - 4 = 4 * i + k by omega]
      exact ih i (by simpa using hi)

theorem length_scheduleWords (key : List Byte) (nk nr : Nat) (h : nk ≤ 4 * (nr + 1)) :
    (scheduleWords key nk nr).length = 4 * (nr + 1) := by
  simp only [scheduleWords, List.length_reverse, length_expandWords, List.length_map, List.length_range]
  omega

/-- The schedule takes `16*(Nr+1)` bytes (R141). -/
theorem length_keyExpansion (key : List Byte) (nk nr : Nat) (h : nk ≤ 4 * (nr + 1)) :
    (keyExpansion key nk nr).length = 16 * (nr + 1) := by
  rw [keyExpansion, length_flatMap_bytes, length_scheduleWords key nk nr h]
  ring

/-- "The first `Nk` words equal the key" (R141). -/
theorem scheduleWords_first (key : List Byte) (nk nr i : Nat) (hi : i < nk) :
    (scheduleWords key nk nr).getD i .zero = wordAt key i := by
  obtain ⟨l, hl⟩ := expandWords_suffix nk (4 * (nr + 1) - nk) nk ((List.range nk).map (wordAt key)).reverse
  rw [scheduleWords, hl]
  simp only [List.reverse_append, List.reverse_reverse]
  rw [List.getD_append _ _ _ _ (by simpa using hi)]
  simp [hi]

/-- Every later word is `temp XOR w[i-Nk]` (R141). -/
theorem scheduleWords_next (key : List Byte) (nk nr : Nat) (hk : 0 < nk) (i : Nat) (h1 : nk ≤ i) (h2 : i < 4 * (nr + 1)) :
    (scheduleWords key nk nr).getD i .zero =
      (scheduleTemp nk i ((scheduleWords key nk nr).getD (i - 1) .zero)).xor
        ((scheduleWords key nk nr).getD (i - nk) .zero) :=
  getD_reverse_expandWords nk _ nk _ (by simp) hk (le_refl _) i h1 (by omega)

theorem keyConfig_none_iff (n : Nat) : keyConfig n = none ↔ ¬(n = 16 ∨ n = 24 ∨ n = 32) := by
  unfold keyConfig
  repeat' split
  all_goals first | (subst_vars; simp; done) | (simp; omega)

theorem keyConfig_some {n : Nat} {cfg : KeyConfig} (h : keyConfig n = some cfg) :
    (n = 16 ∨ n = 24 ∨ n = 32) ∧ cfg.keyBytes = n ∧ cfg.nk = n / 4 ∧ cfg.nr = n / 4 + 6 := by
  unfold keyConfig at h
  repeat' split at h
  all_goals cases h
  all_goals subst_vars
  · exact ⟨.inl rfl, rfl, rfl, rfl⟩
  · exact ⟨.inr (.inl rfl), rfl, rfl, rfl⟩
  · exact ⟨.inr (.inr rfl), rfl, rfl, rfl⟩

end Sys2Proof.Machine
end

