-- ==== Sys2Proof/Laws/State.lean ====
section
/-! SUPPORT. One lemma per field per update of the state, so that no proof unfolds a record update. -/

namespace Sys2Proof.Machine

section PutState
@[simp] theorem State.putState_key (b : Block) (s : State) : (s.putState b).key = s.key := rfl
@[simp] theorem State.putState_keylen (b : Block) (s : State) : (s.putState b).keylen = s.keylen := rfl
@[simp] theorem State.putState_iv (b : Block) (s : State) : (s.putState b).iv = s.iv := rfl
@[simp] theorem State.putState_state (b : Block) (s : State) : (s.putState b).state = b := rfl
@[simp] theorem State.putState_rk (b : Block) (s : State) : (s.putState b).rk = s.rk := rfl
@[simp] theorem State.putState_ctrl (b : Block) (s : State) : (s.putState b).ctrl = s.ctrl := rfl
@[simp] theorem State.putState_status (b : Block) (s : State) : (s.putState b).status = s.status := rfl
@[simp] theorem State.putState_errcmd (b : Block) (s : State) : (s.putState b).errcmd = s.errcmd := rfl
@[simp] theorem State.putState_inlen (b : Block) (s : State) : (s.putState b).inlen = s.inlen := rfl
@[simp] theorem State.putState_outlen (b : Block) (s : State) : (s.putState b).outlen = s.outlen := rfl
@[simp] theorem State.putState_inBuf (b : Block) (s : State) : (s.putState b).inBuf = s.inBuf := rfl
@[simp] theorem State.putState_outBuf (b : Block) (s : State) : (s.putState b).outBuf = s.outBuf := rfl
@[simp] theorem State.putState_bufBytes (b : Block) (s : State) : (s.putState b).bufBytes = s.bufBytes := rfl
@[simp] theorem State.putState_keyWritten (b : Block) (s : State) : (s.putState b).keyWritten = s.keyWritten := rfl
@[simp] theorem State.putState_stateWritten (b : Block) (s : State) : (s.putState b).stateWritten = Vector.replicate 16 true := rfl
@[simp] theorem State.putState_rkWritten (b : Block) (s : State) : (s.putState b).rkWritten = s.rkWritten := rfl
@[simp] theorem State.putState_hostOps (b : Block) (s : State) : (s.putState b).hostOps = s.hostOps := rfl
@[simp] theorem State.putState_reply (b : Block) (s : State) : (s.putState b).reply = s.reply := rfl
@[simp] theorem State.putState_unwrittenRead (b : Block) (s : State) : (s.putState b).unwrittenRead = s.unwrittenRead := rfl
@[simp] theorem State.putState_draws (b : Block) (s : State) : (s.putState b).draws = s.draws := rfl
end PutState

section PutSchedule
@[simp] theorem State.putSchedule_key (cfg : KeyConfig) (l : List Byte) (s : State) : (s.putSchedule cfg l).key = s.key := by
  simp only [State.putSchedule]
@[simp] theorem State.putSchedule_keylen (cfg : KeyConfig) (l : List Byte) (s : State) : (s.putSchedule cfg l).keylen = s.keylen := by
  simp only [State.putSchedule]
@[simp] theorem State.putSchedule_iv (cfg : KeyConfig) (l : List Byte) (s : State) : (s.putSchedule cfg l).iv = s.iv := by
  simp only [State.putSchedule]
@[simp] theorem State.putSchedule_state (cfg : KeyConfig) (l : List Byte) (s : State) : (s.putSchedule cfg l).state = s.state := by
  simp only [State.putSchedule]
@[simp] theorem State.putSchedule_rk (cfg : KeyConfig) (l : List Byte) (s : State) : (s.putSchedule cfg l).rk = buildBytes 240 fun i => l.getD i 0#8 := by
  simp only [State.putSchedule]
@[simp] theorem State.putSchedule_ctrl (cfg : KeyConfig) (l : List Byte) (s : State) : (s.putSchedule cfg l).ctrl = s.ctrl := by
  simp only [State.putSchedule]
@[simp] theorem State.putSchedule_status (cfg : KeyConfig) (l : List Byte) (s : State) : (s.putSchedule cfg l).status = statusOnKeyexp cfg s.status := by
  simp only [State.putSchedule]
@[simp] theorem State.putSchedule_errcmd (cfg : KeyConfig) (l : List Byte) (s : State) : (s.putSchedule cfg l).errcmd = s.errcmd := by
  simp only [State.putSchedule]
@[simp] theorem State.putSchedule_inlen (cfg : KeyConfig) (l : List Byte) (s : State) : (s.putSchedule cfg l).inlen = s.inlen := by
  simp only [State.putSchedule]
@[simp] theorem State.putSchedule_outlen (cfg : KeyConfig) (l : List Byte) (s : State) : (s.putSchedule cfg l).outlen = s.outlen := by
  simp only [State.putSchedule]
@[simp] theorem State.putSchedule_inBuf (cfg : KeyConfig) (l : List Byte) (s : State) : (s.putSchedule cfg l).inBuf = s.inBuf := by
  simp only [State.putSchedule]
@[simp] theorem State.putSchedule_outBuf (cfg : KeyConfig) (l : List Byte) (s : State) : (s.putSchedule cfg l).outBuf = s.outBuf := by
  simp only [State.putSchedule]
@[simp] theorem State.putSchedule_bufBytes (cfg : KeyConfig) (l : List Byte) (s : State) : (s.putSchedule cfg l).bufBytes = s.bufBytes := by
  simp only [State.putSchedule]
@[simp] theorem State.putSchedule_keyWritten (cfg : KeyConfig) (l : List Byte) (s : State) : (s.putSchedule cfg l).keyWritten = s.keyWritten := by
  simp only [State.putSchedule]
@[simp] theorem State.putSchedule_stateWritten (cfg : KeyConfig) (l : List Byte) (s : State) : (s.putSchedule cfg l).stateWritten = s.stateWritten := by
  simp only [State.putSchedule]
@[simp] theorem State.putSchedule_rkWritten (cfg : KeyConfig) (l : List Byte) (s : State) : (s.putSchedule cfg l).rkWritten = l.length := by
  simp only [State.putSchedule]
@[simp] theorem State.putSchedule_hostOps (cfg : KeyConfig) (l : List Byte) (s : State) : (s.putSchedule cfg l).hostOps = s.hostOps := by
  simp only [State.putSchedule]
@[simp] theorem State.putSchedule_reply (cfg : KeyConfig) (l : List Byte) (s : State) : (s.putSchedule cfg l).reply = s.reply := by
  simp only [State.putSchedule]
@[simp] theorem State.putSchedule_unwrittenRead (cfg : KeyConfig) (l : List Byte) (s : State) : (s.putSchedule cfg l).unwrittenRead = s.unwrittenRead := by
  simp only [State.putSchedule]
@[simp] theorem State.putSchedule_draws (cfg : KeyConfig) (l : List Byte) (s : State) : (s.putSchedule cfg l).draws = { s.draws with rk := s.draws.rk + 1 } := by
  simp only [State.putSchedule]
end PutSchedule

section PutResult
@[simp] theorem State.putResult_key (u : List Byte) (s : State) : (s.putResult u).key = s.key := rfl
@[simp] theorem State.putResult_keylen (u : List Byte) (s : State) : (s.putResult u).keylen = s.keylen := rfl
@[simp] theorem State.putResult_iv (u : List Byte) (s : State) : (s.putResult u).iv = s.iv := rfl
@[simp] theorem State.putResult_state (u : List Byte) (s : State) : (s.putResult u).state = s.state := rfl
@[simp] theorem State.putResult_rk (u : List Byte) (s : State) : (s.putResult u).rk = s.rk := rfl
@[simp] theorem State.putResult_ctrl (u : List Byte) (s : State) : (s.putResult u).ctrl = s.ctrl := rfl
@[simp] theorem State.putResult_status (u : List Byte) (s : State) : (s.putResult u).status = s.status := rfl
@[simp] theorem State.putResult_errcmd (u : List Byte) (s : State) : (s.putResult u).errcmd = s.errcmd := rfl
@[simp] theorem State.putResult_inlen (u : List Byte) (s : State) : (s.putResult u).inlen = s.inlen := rfl
@[simp] theorem State.putResult_outlen (u : List Byte) (s : State) : (s.putResult u).outlen = BitVec.ofNat 32 u.length := rfl
@[simp] theorem State.putResult_inBuf (u : List Byte) (s : State) : (s.putResult u).inBuf = s.inBuf := rfl
@[simp] theorem State.putResult_outBuf (u : List Byte) (s : State) : (s.putResult u).outBuf = Memory.ofBytesFrom 0 u := rfl
@[simp] theorem State.putResult_bufBytes (u : List Byte) (s : State) : (s.putResult u).bufBytes = s.bufBytes := rfl
@[simp] theorem State.putResult_keyWritten (u : List Byte) (s : State) : (s.putResult u).keyWritten = s.keyWritten := rfl
@[simp] theorem State.putResult_stateWritten (u : List Byte) (s : State) : (s.putResult u).stateWritten = s.stateWritten := rfl
@[simp] theorem State.putResult_rkWritten (u : List Byte) (s : State) : (s.putResult u).rkWritten = s.rkWritten := rfl
@[simp] theorem State.putResult_hostOps (u : List Byte) (s : State) : (s.putResult u).hostOps = s.hostOps := rfl
@[simp] theorem State.putResult_reply (u : List Byte) (s : State) : (s.putResult u).reply = s.reply := rfl
@[simp] theorem State.putResult_unwrittenRead (u : List Byte) (s : State) : (s.putResult u).unwrittenRead = s.unwrittenRead := rfl
@[simp] theorem State.putResult_draws (u : List Byte) (s : State) : (s.putResult u).draws = { s.draws with out := s.draws.out + 1 } := rfl
end PutResult

section Raise
@[simp] theorem State.raise_key (e : ErrCode) (w : Word) (s : State) : (s.raise e w).key = s.key := rfl
@[simp] theorem State.raise_keylen (e : ErrCode) (w : Word) (s : State) : (s.raise e w).keylen = s.keylen := rfl
@[simp] theorem State.raise_iv (e : ErrCode) (w : Word) (s : State) : (s.raise e w).iv = s.iv := rfl
@[simp] theorem State.raise_state (e : ErrCode) (w : Word) (s : State) : (s.raise e w).state = s.state := rfl
@[simp] theorem State.raise_rk (e : ErrCode) (w : Word) (s : State) : (s.raise e w).rk = s.rk := rfl
@[simp] theorem State.raise_ctrl (e : ErrCode) (w : Word) (s : State) : (s.raise e w).ctrl = s.ctrl := rfl
@[simp] theorem State.raise_status (e : ErrCode) (w : Word) (s : State) : (s.raise e w).status = statusOnFault e s.status := rfl
@[simp] theorem State.raise_errcmd (e : ErrCode) (w : Word) (s : State) : (s.raise e w).errcmd = w := rfl
@[simp] theorem State.raise_inlen (e : ErrCode) (w : Word) (s : State) : (s.raise e w).inlen = s.inlen := rfl
@[simp] theorem State.raise_outlen (e : ErrCode) (w : Word) (s : State) : (s.raise e w).outlen = s.outlen := rfl
@[simp] theorem State.raise_inBuf (e : ErrCode) (w : Word) (s : State) : (s.raise e w).inBuf = s.inBuf := rfl
@[simp] theorem State.raise_outBuf (e : ErrCode) (w : Word) (s : State) : (s.raise e w).outBuf = s.outBuf := rfl
@[simp] theorem State.raise_bufBytes (e : ErrCode) (w : Word) (s : State) : (s.raise e w).bufBytes = s.bufBytes := rfl
@[simp] theorem State.raise_keyWritten (e : ErrCode) (w : Word) (s : State) : (s.raise e w).keyWritten = s.keyWritten := rfl
@[simp] theorem State.raise_stateWritten (e : ErrCode) (w : Word) (s : State) : (s.raise e w).stateWritten = s.stateWritten := rfl
@[simp] theorem State.raise_rkWritten (e : ErrCode) (w : Word) (s : State) : (s.raise e w).rkWritten = s.rkWritten := rfl
@[simp] theorem State.raise_hostOps (e : ErrCode) (w : Word) (s : State) : (s.raise e w).hostOps = s.hostOps := rfl
@[simp] theorem State.raise_reply (e : ErrCode) (w : Word) (s : State) : (s.raise e w).reply = s.reply := rfl
@[simp] theorem State.raise_unwrittenRead (e : ErrCode) (w : Word) (s : State) : (s.raise e w).unwrittenRead = s.unwrittenRead := rfl
@[simp] theorem State.raise_draws (e : ErrCode) (w : Word) (s : State) : (s.raise e w).draws = s.draws := rfl
end Raise

section NoteRead
@[simp] theorem State.noteRead_key (a : ByteArr) (lo n : Nat) (s : State) : (s.noteRead a lo n).key = s.key := rfl
@[simp] theorem State.noteRead_keylen (a : ByteArr) (lo n : Nat) (s : State) : (s.noteRead a lo n).keylen = s.keylen := rfl
@[simp] theorem State.noteRead_iv (a : ByteArr) (lo n : Nat) (s : State) : (s.noteRead a lo n).iv = s.iv := rfl
@[simp] theorem State.noteRead_state (a : ByteArr) (lo n : Nat) (s : State) : (s.noteRead a lo n).state = s.state := rfl
@[simp] theorem State.noteRead_rk (a : ByteArr) (lo n : Nat) (s : State) : (s.noteRead a lo n).rk = s.rk := rfl
@[simp] theorem State.noteRead_ctrl (a : ByteArr) (lo n : Nat) (s : State) : (s.noteRead a lo n).ctrl = s.ctrl := rfl
@[simp] theorem State.noteRead_status (a : ByteArr) (lo n : Nat) (s : State) : (s.noteRead a lo n).status = s.status := rfl
@[simp] theorem State.noteRead_errcmd (a : ByteArr) (lo n : Nat) (s : State) : (s.noteRead a lo n).errcmd = s.errcmd := rfl
@[simp] theorem State.noteRead_inlen (a : ByteArr) (lo n : Nat) (s : State) : (s.noteRead a lo n).inlen = s.inlen := rfl
@[simp] theorem State.noteRead_outlen (a : ByteArr) (lo n : Nat) (s : State) : (s.noteRead a lo n).outlen = s.outlen := rfl
@[simp] theorem State.noteRead_inBuf (a : ByteArr) (lo n : Nat) (s : State) : (s.noteRead a lo n).inBuf = s.inBuf := rfl
@[simp] theorem State.noteRead_outBuf (a : ByteArr) (lo n : Nat) (s : State) : (s.noteRead a lo n).outBuf = s.outBuf := rfl
@[simp] theorem State.noteRead_bufBytes (a : ByteArr) (lo n : Nat) (s : State) : (s.noteRead a lo n).bufBytes = s.bufBytes := rfl
@[simp] theorem State.noteRead_keyWritten (a : ByteArr) (lo n : Nat) (s : State) : (s.noteRead a lo n).keyWritten = s.keyWritten := rfl
@[simp] theorem State.noteRead_stateWritten (a : ByteArr) (lo n : Nat) (s : State) : (s.noteRead a lo n).stateWritten = s.stateWritten := rfl
@[simp] theorem State.noteRead_rkWritten (a : ByteArr) (lo n : Nat) (s : State) : (s.noteRead a lo n).rkWritten = s.rkWritten := rfl
@[simp] theorem State.noteRead_hostOps (a : ByteArr) (lo n : Nat) (s : State) : (s.noteRead a lo n).hostOps = s.hostOps := rfl
@[simp] theorem State.noteRead_reply (a : ByteArr) (lo n : Nat) (s : State) : (s.noteRead a lo n).reply = s.reply := rfl
@[simp] theorem State.noteRead_unwrittenRead (a : ByteArr) (lo n : Nat) (s : State) : (s.noteRead a lo n).unwrittenRead = (s.unwrittenRead || !(s.allWritten a lo n)) := rfl
@[simp] theorem State.noteRead_draws (a : ByteArr) (lo n : Nat) (s : State) : (s.noteRead a lo n).draws = s.draws := rfl
end NoteRead

section NoteRoundKeys
@[simp] theorem State.noteRoundKeys_key (s : State) : (s.noteRoundKeys).key = s.key := rfl
@[simp] theorem State.noteRoundKeys_keylen (s : State) : (s.noteRoundKeys).keylen = s.keylen := rfl
@[simp] theorem State.noteRoundKeys_iv (s : State) : (s.noteRoundKeys).iv = s.iv := rfl
@[simp] theorem State.noteRoundKeys_state (s : State) : (s.noteRoundKeys).state = s.state := rfl
@[simp] theorem State.noteRoundKeys_rk (s : State) : (s.noteRoundKeys).rk = s.rk := rfl
@[simp] theorem State.noteRoundKeys_ctrl (s : State) : (s.noteRoundKeys).ctrl = s.ctrl := rfl
@[simp] theorem State.noteRoundKeys_status (s : State) : (s.noteRoundKeys).status = s.status := rfl
@[simp] theorem State.noteRoundKeys_errcmd (s : State) : (s.noteRoundKeys).errcmd = s.errcmd := rfl
@[simp] theorem State.noteRoundKeys_inlen (s : State) : (s.noteRoundKeys).inlen = s.inlen := rfl
@[simp] theorem State.noteRoundKeys_outlen (s : State) : (s.noteRoundKeys).outlen = s.outlen := rfl
@[simp] theorem State.noteRoundKeys_inBuf (s : State) : (s.noteRoundKeys).inBuf = s.inBuf := rfl
@[simp] theorem State.noteRoundKeys_outBuf (s : State) : (s.noteRoundKeys).outBuf = s.outBuf := rfl
@[simp] theorem State.noteRoundKeys_bufBytes (s : State) : (s.noteRoundKeys).bufBytes = s.bufBytes := rfl
@[simp] theorem State.noteRoundKeys_keyWritten (s : State) : (s.noteRoundKeys).keyWritten = s.keyWritten := rfl
@[simp] theorem State.noteRoundKeys_stateWritten (s : State) : (s.noteRoundKeys).stateWritten = s.stateWritten := rfl
@[simp] theorem State.noteRoundKeys_rkWritten (s : State) : (s.noteRoundKeys).rkWritten = s.rkWritten := rfl
@[simp] theorem State.noteRoundKeys_hostOps (s : State) : (s.noteRoundKeys).hostOps = s.hostOps := rfl
@[simp] theorem State.noteRoundKeys_reply (s : State) : (s.noteRoundKeys).reply = s.reply := rfl
@[simp] theorem State.noteRoundKeys_unwrittenRead (s : State) : (s.noteRoundKeys).unwrittenRead = (s.unwrittenRead || !(s.allWritten .rk 0 (16 * (s.nr + 1)))) := rfl
@[simp] theorem State.noteRoundKeys_draws (s : State) : (s.noteRoundKeys).draws = s.draws := rfl
end NoteRoundKeys

section KeyTouched
@[simp] theorem State.keyTouched_key (s : State) : (s.keyTouched).key = s.key := rfl
@[simp] theorem State.keyTouched_keylen (s : State) : (s.keyTouched).keylen = s.keylen := rfl
@[simp] theorem State.keyTouched_iv (s : State) : (s.keyTouched).iv = s.iv := rfl
@[simp] theorem State.keyTouched_state (s : State) : (s.keyTouched).state = s.state := rfl
@[simp] theorem State.keyTouched_rk (s : State) : (s.keyTouched).rk = s.rk := rfl
@[simp] theorem State.keyTouched_ctrl (s : State) : (s.keyTouched).ctrl = s.ctrl := rfl
@[simp] theorem State.keyTouched_status (s : State) : (s.keyTouched).status = statusOnKeyWrite s.status := rfl
@[simp] theorem State.keyTouched_errcmd (s : State) : (s.keyTouched).errcmd = s.errcmd := rfl
@[simp] theorem State.keyTouched_inlen (s : State) : (s.keyTouched).inlen = s.inlen := rfl
@[simp] theorem State.keyTouched_outlen (s : State) : (s.keyTouched).outlen = s.outlen := rfl
@[simp] theorem State.keyTouched_inBuf (s : State) : (s.keyTouched).inBuf = s.inBuf := rfl
@[simp] theorem State.keyTouched_outBuf (s : State) : (s.keyTouched).outBuf = s.outBuf := rfl
@[simp] theorem State.keyTouched_bufBytes (s : State) : (s.keyTouched).bufBytes = s.bufBytes := rfl
@[simp] theorem State.keyTouched_keyWritten (s : State) : (s.keyTouched).keyWritten = s.keyWritten := rfl
@[simp] theorem State.keyTouched_stateWritten (s : State) : (s.keyTouched).stateWritten = s.stateWritten := rfl
@[simp] theorem State.keyTouched_rkWritten (s : State) : (s.keyTouched).rkWritten = s.rkWritten := rfl
@[simp] theorem State.keyTouched_hostOps (s : State) : (s.keyTouched).hostOps = s.hostOps := rfl
@[simp] theorem State.keyTouched_reply (s : State) : (s.keyTouched).reply = s.reply := rfl
@[simp] theorem State.keyTouched_unwrittenRead (s : State) : (s.keyTouched).unwrittenRead = s.unwrittenRead := rfl
@[simp] theorem State.keyTouched_draws (s : State) : (s.keyTouched).draws = s.draws := rfl
end KeyTouched

section TakeOp
@[simp] theorem State.takeOp_key (rest : List HostOp) (s : State) : (s.takeOp rest).key = s.key := rfl
@[simp] theorem State.takeOp_keylen (rest : List HostOp) (s : State) : (s.takeOp rest).keylen = s.keylen := rfl
@[simp] theorem State.takeOp_iv (rest : List HostOp) (s : State) : (s.takeOp rest).iv = s.iv := rfl
@[simp] theorem State.takeOp_state (rest : List HostOp) (s : State) : (s.takeOp rest).state = s.state := rfl
@[simp] theorem State.takeOp_rk (rest : List HostOp) (s : State) : (s.takeOp rest).rk = s.rk := rfl
@[simp] theorem State.takeOp_ctrl (rest : List HostOp) (s : State) : (s.takeOp rest).ctrl = s.ctrl := rfl
@[simp] theorem State.takeOp_status (rest : List HostOp) (s : State) : (s.takeOp rest).status = s.status := rfl
@[simp] theorem State.takeOp_errcmd (rest : List HostOp) (s : State) : (s.takeOp rest).errcmd = s.errcmd := rfl
@[simp] theorem State.takeOp_inlen (rest : List HostOp) (s : State) : (s.takeOp rest).inlen = s.inlen := rfl
@[simp] theorem State.takeOp_outlen (rest : List HostOp) (s : State) : (s.takeOp rest).outlen = s.outlen := rfl
@[simp] theorem State.takeOp_inBuf (rest : List HostOp) (s : State) : (s.takeOp rest).inBuf = s.inBuf := rfl
@[simp] theorem State.takeOp_outBuf (rest : List HostOp) (s : State) : (s.takeOp rest).outBuf = s.outBuf := rfl
@[simp] theorem State.takeOp_bufBytes (rest : List HostOp) (s : State) : (s.takeOp rest).bufBytes = s.bufBytes := rfl
@[simp] theorem State.takeOp_keyWritten (rest : List HostOp) (s : State) : (s.takeOp rest).keyWritten = s.keyWritten := rfl
@[simp] theorem State.takeOp_stateWritten (rest : List HostOp) (s : State) : (s.takeOp rest).stateWritten = s.stateWritten := rfl
@[simp] theorem State.takeOp_rkWritten (rest : List HostOp) (s : State) : (s.takeOp rest).rkWritten = s.rkWritten := rfl
@[simp] theorem State.takeOp_hostOps (rest : List HostOp) (s : State) : (s.takeOp rest).hostOps = rest := rfl
@[simp] theorem State.takeOp_reply (rest : List HostOp) (s : State) : (s.takeOp rest).reply = none := rfl
@[simp] theorem State.takeOp_unwrittenRead (rest : List HostOp) (s : State) : (s.takeOp rest).unwrittenRead = s.unwrittenRead := rfl
@[simp] theorem State.takeOp_draws (rest : List HostOp) (s : State) : (s.takeOp rest).draws = s.draws := rfl
end TakeOp

section PlaceCommand
@[simp] theorem State.placeCommand_key (w : Word) (s : State) : (s.placeCommand w).key = s.key := rfl
@[simp] theorem State.placeCommand_keylen (w : Word) (s : State) : (s.placeCommand w).keylen = s.keylen := rfl
@[simp] theorem State.placeCommand_iv (w : Word) (s : State) : (s.placeCommand w).iv = s.iv := rfl
@[simp] theorem State.placeCommand_state (w : Word) (s : State) : (s.placeCommand w).state = s.state := rfl
@[simp] theorem State.placeCommand_rk (w : Word) (s : State) : (s.placeCommand w).rk = s.rk := rfl
@[simp] theorem State.placeCommand_ctrl (w : Word) (s : State) : (s.placeCommand w).ctrl = s.ctrl := rfl
@[simp] theorem State.placeCommand_status (w : Word) (s : State) : (s.placeCommand w).status = s.status := rfl
@[simp] theorem State.placeCommand_errcmd (w : Word) (s : State) : (s.placeCommand w).errcmd = s.errcmd := rfl
@[simp] theorem State.placeCommand_inlen (w : Word) (s : State) : (s.placeCommand w).inlen = s.inlen := rfl
@[simp] theorem State.placeCommand_outlen (w : Word) (s : State) : (s.placeCommand w).outlen = s.outlen := rfl
@[simp] theorem State.placeCommand_inBuf (w : Word) (s : State) : (s.placeCommand w).inBuf = s.inBuf := rfl
@[simp] theorem State.placeCommand_outBuf (w : Word) (s : State) : (s.placeCommand w).outBuf = s.outBuf := rfl
@[simp] theorem State.placeCommand_bufBytes (w : Word) (s : State) : (s.placeCommand w).bufBytes = s.bufBytes := rfl
@[simp] theorem State.placeCommand_keyWritten (w : Word) (s : State) : (s.placeCommand w).keyWritten = s.keyWritten := rfl
@[simp] theorem State.placeCommand_stateWritten (w : Word) (s : State) : (s.placeCommand w).stateWritten = s.stateWritten := rfl
@[simp] theorem State.placeCommand_rkWritten (w : Word) (s : State) : (s.placeCommand w).rkWritten = s.rkWritten := rfl
@[simp] theorem State.placeCommand_hostOps (w : Word) (s : State) : (s.placeCommand w).hostOps = .writeReg .cmd w :: s.hostOps := rfl
@[simp] theorem State.placeCommand_reply (w : Word) (s : State) : (s.placeCommand w).reply = s.reply := rfl
@[simp] theorem State.placeCommand_unwrittenRead (w : Word) (s : State) : (s.placeCommand w).unwrittenRead = s.unwrittenRead := rfl
@[simp] theorem State.placeCommand_draws (w : Word) (s : State) : (s.placeCommand w).draws = s.draws := rfl
end PlaceCommand

section DoReset
@[simp] theorem State.doReset_key (s : State) : s.doReset.key = Vector.replicate 32 0#8 := rfl
@[simp] theorem State.doReset_keylen (s : State) : s.doReset.keylen = 0#8 := rfl
@[simp] theorem State.doReset_iv (s : State) : s.doReset.iv = Vector.replicate 16 0#8 := rfl
@[simp] theorem State.doReset_state (s : State) : s.doReset.state = Vector.replicate 16 0#8 := rfl
@[simp] theorem State.doReset_rk (s : State) : s.doReset.rk = Vector.replicate 240 0#8 := rfl
@[simp] theorem State.doReset_ctrl (s : State) : s.doReset.ctrl = 0#32 := rfl
@[simp] theorem State.doReset_status (s : State) : s.doReset.status = 0#32 := rfl
@[simp] theorem State.doReset_errcmd (s : State) : s.doReset.errcmd = 0#32 := rfl
@[simp] theorem State.doReset_inlen (s : State) : s.doReset.inlen = 0#32 := rfl
@[simp] theorem State.doReset_outlen (s : State) : s.doReset.outlen = 0#32 := rfl
@[simp] theorem State.doReset_inBuf (s : State) : s.doReset.inBuf = [] := rfl
@[simp] theorem State.doReset_outBuf (s : State) : s.doReset.outBuf = [] := rfl
@[simp] theorem State.doReset_bufBytes (s : State) : s.doReset.bufBytes = s.bufBytes := rfl
@[simp] theorem State.doReset_keyWritten (s : State) : s.doReset.keyWritten = Vector.replicate 32 false := rfl
@[simp] theorem State.doReset_stateWritten (s : State) : s.doReset.stateWritten = Vector.replicate 16 false := rfl
@[simp] theorem State.doReset_rkWritten (s : State) : s.doReset.rkWritten = 0 := rfl
@[simp] theorem State.doReset_hostOps (s : State) : s.doReset.hostOps = s.hostOps := rfl
@[simp] theorem State.doReset_reply (s : State) : s.doReset.reply = none := rfl
@[simp] theorem State.doReset_unwrittenRead (s : State) : s.doReset.unwrittenRead = s.unwrittenRead := rfl
@[simp] theorem State.doReset_draws (s : State) : s.doReset.draws = ⟨s.draws.all + 1, s.draws.rk + 1, s.draws.out + 1⟩ := rfl
end DoReset

end Sys2Proof.Machine
end

