-- ==== Sys2Proof/Laws/Flags.lean ====
section
/-! SUPPORT. What each write of STATUS and CTRL does to each of their fields. -/

namespace Sys2Proof.Machine

theorem getLsbD_fieldMask (lo width i : Nat) :
    (fieldMask lo width).getLsbD i = decide (i < 32 ∧ lo ≤ i ∧ i < lo + width) := by
  simp only [fieldMask, BitVec.getLsbD_ofNat, Nat.testBit_mul_two_pow, Nat.testBit_two_pow_sub_one]
  by_cases h1 : i < 32 <;> by_cases h2 : lo ≤ i <;> simp [h1, h2]; omega

/-- A field write changes exactly the bits of the field. -/
theorem getLsbD_setField (lo width v : Nat) (w : Word) (i : Nat) :
    (setField lo width v w).getLsbD i =
      if i < 32 ∧ lo ≤ i ∧ i < lo + width then v.testBit (i - lo) else w.getLsbD i := by
  simp only [setField, BitVec.getLsbD_or, BitVec.getLsbD_and, BitVec.getLsbD_not, getLsbD_fieldMask,
    BitVec.getLsbD_ofNat, Nat.testBit_mul_two_pow]
  by_cases h1 : i < 32
  · by_cases h2 : lo ≤ i <;> by_cases h3 : i < lo + width <;> simp [h1, h2, h3]
  · simp [h1, BitVec.getLsbD_of_ge w i (by omega)]

theorem testBit_getField (lo width : Nat) (w : Word) (i : Nat) :
    (getField lo width w).testBit i = (decide (i < width) && w.getLsbD (lo + i)) := by
  simp [getField, BitVec.testBit_toNat]

theorem getField_setField_same {lo width v : Nat} (w : Word) (hw : lo + width ≤ 32) (hv : v < 2 ^ width) :
    getField lo width (setField lo width v w) = v := by
  apply Nat.eq_of_testBit_eq
  intro i
  rw [testBit_getField, getLsbD_setField]
  by_cases h : i < width
  · have : lo + i < 32 ∧ lo ≤ lo + i ∧ lo + i < lo + width := by omega
    simp [h, this]
  · have : v.testBit i = false :=
      Nat.testBit_lt_two_pow (lt_of_lt_of_le hv (Nat.pow_le_pow_right (by omega) (by omega)))
    simp [h, this]

theorem getField_setField_other {lo width lo' width' v : Nat} (w : Word)
    (hd : lo' + width' ≤ lo ∨ lo + width ≤ lo') :
    getField lo' width' (setField lo width v w) = getField lo' width' w := by
  apply Nat.eq_of_testBit_eq
  intro i
  rw [testBit_getField, testBit_getField, getLsbD_setField]
  by_cases h : i < width'
  · have : ¬ (lo' + i < 32 ∧ lo ≤ lo' + i ∧ lo' + i < lo + width) := by omega
    simp [h, this]
  · simp [h]

theorem getField_lt (lo width : Nat) (w : Word) : getField lo width w < 2 ^ width := BitVec.isLt _

theorem ErrCode.code_lt (e : ErrCode) : e.code < 2 ^ 8 := by cases e <;> decide

theorem ErrCode.code_ne_zero (e : ErrCode) : e.code ≠ 0 := by cases e <;> decide

/-! ### Fault entry -/

@[simp] theorem State.faulted_raise (e : ErrCode) (w : Word) (s : State) : (s.raise e w).faulted = true := by
  simp only [State.faulted, State.raise_status, statusOnFault, getLsbD_setField]; rfl

@[simp] theorem State.keyValid_raise (e : ErrCode) (w : Word) (s : State) : (s.raise e w).keyValid = s.keyValid := by
  simp only [State.keyValid, State.raise_status, statusOnFault, getLsbD_setField]; rfl

@[simp] theorem State.err_raise (e : ErrCode) (w : Word) (s : State) : (s.raise e w).err = e.code := by
  simp only [State.err, State.raise_status, statusOnFault]
  rw [getField_setField_other _ (by omega), getField_setField_same _ (by omega) e.code_lt]

@[simp] theorem State.nk_raise (e : ErrCode) (w : Word) (s : State) : (s.raise e w).nk = s.nk := by
  simp only [State.nk, State.raise_status, statusOnFault]
  rw [getField_setField_other _ (by omega), getField_setField_other _ (by omega)]

@[simp] theorem State.nr_raise (e : ErrCode) (w : Word) (s : State) : (s.raise e w).nr = s.nr := by
  simp only [State.nr, State.raise_status, statusOnFault]
  rw [getField_setField_other _ (by omega), getField_setField_other _ (by omega)]

/-! ### A successful KEYEXP -/

@[simp] theorem State.faulted_putSchedule (cfg : KeyConfig) (l : List Byte) (s : State) :
    (s.putSchedule cfg l).faulted = s.faulted := by
  simp only [State.faulted, State.putSchedule_status, statusOnKeyexp, getLsbD_setField]; rfl

@[simp] theorem State.keyValid_putSchedule (cfg : KeyConfig) (l : List Byte) (s : State) :
    (s.putSchedule cfg l).keyValid = true := by
  simp only [State.keyValid, State.putSchedule_status, statusOnKeyexp, getLsbD_setField]; rfl

@[simp] theorem State.err_putSchedule (cfg : KeyConfig) (l : List Byte) (s : State) :
    (s.putSchedule cfg l).err = s.err := by
  simp only [State.err, State.putSchedule_status, statusOnKeyexp]
  rw [getField_setField_other _ (by omega), getField_setField_other _ (by omega), getField_setField_other _ (by omega)]

theorem State.nk_putSchedule {cfg : KeyConfig} (l : List Byte) (s : State) (h : cfg.nk < 16) :
    (s.putSchedule cfg l).nk = cfg.nk := by
  simp only [State.nk, State.putSchedule_status, statusOnKeyexp]
  rw [getField_setField_same _ (by omega) h]

theorem State.nr_putSchedule {cfg : KeyConfig} (l : List Byte) (s : State) (h : cfg.nr < 16) :
    (s.putSchedule cfg l).nr = cfg.nr := by
  simp only [State.nr, State.putSchedule_status, statusOnKeyexp]
  rw [getField_setField_other _ (by omega), getField_setField_same _ (by omega) h]

/-! ### A host write to KEY or KEYLEN -/

@[simp] theorem State.faulted_keyTouched (s : State) : s.keyTouched.faulted = s.faulted := by
  simp only [State.faulted, State.keyTouched_status, statusOnKeyWrite, getLsbD_setField]; rfl

@[simp] theorem State.keyValid_keyTouched (s : State) : s.keyTouched.keyValid = false := by
  simp only [State.keyValid, State.keyTouched_status, statusOnKeyWrite, getLsbD_setField]; rfl

@[simp] theorem State.err_keyTouched (s : State) : s.keyTouched.err = s.err := by
  simp only [State.err, State.keyTouched_status, statusOnKeyWrite]
  rw [getField_setField_other _ (by omega)]

@[simp] theorem State.nk_keyTouched (s : State) : s.keyTouched.nk = s.nk := by
  simp only [State.nk, State.keyTouched_status, statusOnKeyWrite]
  rw [getField_setField_other _ (by omega)]

@[simp] theorem State.nr_keyTouched (s : State) : s.keyTouched.nr = s.nr := by
  simp only [State.nr, State.keyTouched_status, statusOnKeyWrite]
  rw [getField_setField_other _ (by omega)]

/-! ### Updates that leave STATUS alone -/

section Unchanged
variable (s : State)
@[simp] theorem State.faulted_putState (b : Block) : (s.putState b).faulted = s.faulted := rfl
@[simp] theorem State.keyValid_putState (b : Block) : (s.putState b).keyValid = s.keyValid := rfl
@[simp] theorem State.nr_putState (b : Block) : (s.putState b).nr = s.nr := rfl
@[simp] theorem State.faulted_putResult (u : List Byte) : (s.putResult u).faulted = s.faulted := rfl
@[simp] theorem State.keyValid_putResult (u : List Byte) : (s.putResult u).keyValid = s.keyValid := rfl
@[simp] theorem State.nr_putResult (u : List Byte) : (s.putResult u).nr = s.nr := rfl
@[simp] theorem State.faulted_noteRead (a : ByteArr) (lo n : Nat) : (s.noteRead a lo n).faulted = s.faulted := rfl
@[simp] theorem State.keyValid_noteRead (a : ByteArr) (lo n : Nat) : (s.noteRead a lo n).keyValid = s.keyValid := rfl
@[simp] theorem State.nr_noteRead (a : ByteArr) (lo n : Nat) : (s.noteRead a lo n).nr = s.nr := rfl
@[simp] theorem State.faulted_takeOp (rest : List HostOp) : (s.takeOp rest).faulted = s.faulted := rfl
@[simp] theorem State.keyValid_takeOp (rest : List HostOp) : (s.takeOp rest).keyValid = s.keyValid := rfl
@[simp] theorem State.nr_takeOp (rest : List HostOp) : (s.takeOp rest).nr = s.nr := rfl
end Unchanged

/-- The bits a write of CTRL leaves: STRICT_PAD, and zeros above it. -/
theorem getLsbD_ctrlOnWrite (v : Word) (i : Nat) : (ctrlOnWrite v).getLsbD i = (decide (i = 0) && v.getLsbD i) := by
  simp only [ctrlOnWrite, BitVec.getLsbD_and, getLsbD_fieldMask]
  by_cases h : i = 0
  · simp [h]
  · simp [h]

end Sys2Proof.Machine
end

