-- ==== Sys2Proof/Laws/Memory.lean ====
section
/-! SUPPORT. The sparse buffers: read after write, the canonical form, and what a range read answers. -/

namespace Sys2Proof.Machine

/-- A write is read back, and leaves every other address alone. -/
theorem Memory.read_write (m : Memory) (a b' : Nat) (v : Byte) :
    (m.write a v).read b' = if b' = a then some v else m.read b' := by
  induction m with
  | nil => simp only [Memory.write, Memory.read]
  | cons e m ih =>
    obtain ⟨k, c⟩ := e
    simp only [Memory.write]
    by_cases h1 : a < k
    · simp only [h1, if_true, Memory.read]
    · by_cases h2 : a = k
      · subst h2
        simp only [lt_irrefl, if_false, if_true, Memory.read]
        split <;> rfl
      · simp only [h1, h2, if_false, Memory.read, ih]
        by_cases h3 : b' = k
        · simp [h3]; omega
        · simp [h3]

theorem Memory.within_mono {lo lo' hi hi' : Nat} (m : Memory) (hl : lo' ≤ lo) (hh : hi ≤ hi')
    (h : Memory.within lo hi m = true) : Memory.within lo' hi' m = true := by
  induction m generalizing lo lo' with
  | nil => rfl
  | cons e m ih =>
    obtain ⟨k, c⟩ := e
    simp only [Memory.within, Bool.and_eq_true, decide_eq_true_eq] at h ⊢
    exact ⟨⟨by omega, by omega⟩, ih (le_refl _) h.2⟩

theorem Memory.within_write {lo hi : Nat} (m : Memory) (a : Nat) (v : Byte) (hm : Memory.within lo hi m = true)
    (hl : lo ≤ a) (ha : a < hi) : Memory.within lo hi (m.write a v) = true := by
  induction m generalizing lo with
  | nil => simp [Memory.write, Memory.within, hl, ha]
  | cons e m ih =>
    obtain ⟨k, c⟩ := e
    simp only [Memory.within, Bool.and_eq_true, decide_eq_true_eq] at hm
    simp only [Memory.write]
    split
    · simp only [Memory.within, Bool.and_eq_true, decide_eq_true_eq]
      exact ⟨⟨hl, ha⟩, ⟨by omega, by omega⟩, hm.2⟩
    · split
      · next h => subst h; simpa [Memory.within, ha] using ⟨hl, hm.2⟩
      · simp only [Memory.within, Bool.and_eq_true, decide_eq_true_eq]
        exact ⟨hm.1, ih hm.2 (by omega)⟩

/-- A write inside the buffer keeps the canonical form. -/
theorem Memory.wf_write {size : Nat} (m : Memory) (a : Nat) (v : Byte) (hm : Memory.wf size m = true) (ha : a < size) :
    Memory.wf size (m.write a v) = true := Memory.within_write m a v hm (Nat.zero_le _) ha

theorem Memory.within_ofBytesFrom {lo hi : Nat} (a : Nat) (bs : List Byte) (hl : lo ≤ a) (ha : a + bs.length ≤ hi) :
    Memory.within lo hi (Memory.ofBytesFrom a bs) = true := by
  induction bs generalizing a lo with
  | nil => rfl
  | cons b bs ih =>
    simp only [List.length_cons] at ha
    simp only [Memory.ofBytesFrom, Memory.within, Bool.and_eq_true, decide_eq_true_eq]
    exact ⟨⟨hl, by omega⟩, ih (a + 1) (le_refl _) (by omega)⟩

/-- A result that fits the buffer has the canonical form. -/
theorem Memory.wf_ofBytesFrom {size : Nat} (bs : List Byte) (h : bs.length ≤ size) :
    Memory.wf size (Memory.ofBytesFrom 0 bs) = true :=
  Memory.within_ofBytesFrom 0 bs (le_refl _) (by omega)

theorem Memory.wf_nil (size : Nat) : Memory.wf size [] = true := rfl

/-- The bytes laid from address `a` on are read there, and nowhere else. -/
theorem Memory.read_ofBytesFrom (a : Nat) (bs : List Byte) (i : Nat) :
    (Memory.ofBytesFrom a bs).read i = if a ≤ i then bs[i - a]? else none := by
  induction bs generalizing a with
  | nil => simp [Memory.ofBytesFrom, Memory.read]
  | cons b bs ih =>
    simp only [Memory.ofBytesFrom, Memory.read, ih]
    by_cases h1 : i = a
    · simp [h1]
    · by_cases h2 : a ≤ i
      · have h3 : a + 1 ≤ i := by omega
        obtain ⟨d, hd⟩ : ∃ d, i - a = d + 1 := ⟨i - a - 1, by omega⟩
        simp only [h1, h2, h3, if_false, if_true, hd, show i - (a + 1) = d by omega, List.getElem?_cons_succ]
      · have h3 : ¬ a + 1 ≤ i := by omega
        simp [h1, h2, h3]

/-- A range read answers the bytes exactly when every one of them is written. -/
theorem Memory.readRange_ok_iff (m : Memory) (a n : Nat) (bs : List Byte) :
    m.readRange a n = .ok bs ↔ bs.length = n ∧ ∀ j, j < n → m.read (a + j) = bs[j]? := by
  induction n generalizing a bs with
  | zero =>
    cases bs with
    | nil => simp [Memory.readRange]
    | cons b bs => simp [Memory.readRange]
  | succ n ih =>
    simp only [Memory.readRange]
    cases hr : m.read a with
    | none =>
      simp only [reduceCtorEq, false_iff, not_and]
      intro hl h
      have := h 0 (by omega)
      rw [Nat.add_zero, hr] at this
      cases bs with
      | nil => simp at hl
      | cons b bs => simp at this
    | some b =>
      cases hq : m.readRange (a + 1) n with
      | error e =>
        simp only [reduceCtorEq, false_iff, not_and]
        intro hl h
        cases bs with
        | nil => simp at hl
        | cons c cs =>
          have := (ih (a + 1) cs).mpr ⟨by simpa using hl, fun j hj => by
            have := h (j + 1) (by omega)
            rw [show a + 1 + j = a + (j + 1) by omega, this, List.getElem?_cons_succ]⟩
          rw [hq] at this
          cases this
      | ok cs =>
        have hcs := (ih (a + 1) cs).mp hq
        simp only [Except.ok.injEq]
        constructor
        · rintro rfl
          refine ⟨by simp [hcs.1], fun j hj => ?_⟩
          cases j with
          | zero => simpa using hr
          | succ j => rw [show a + (j + 1) = a + 1 + j by omega, hcs.2 j (by omega), List.getElem?_cons_succ]
        · rintro ⟨hl, h⟩
          cases bs with
          | nil => simp at hl
          | cons c ds =>
            have h0 := h 0 (by omega)
            simp only [Nat.add_zero, hr, List.getElem?_cons_zero, Option.some.injEq] at h0
            have := (ih (a + 1) ds).mpr ⟨by simpa using hl, fun j hj => by
              have := h (j + 1) (by omega)
              rw [show a + 1 + j = a + (j + 1) by omega, this, List.getElem?_cons_succ]⟩
            rw [hq] at this
            cases this
            rw [h0]

/-- A range read stops at the first unwritten address of the range. -/
theorem Memory.readRange_error_iff (m : Memory) (a n e : Nat) :
    m.readRange a n = .error e ↔
      a ≤ e ∧ e < a + n ∧ m.read e = none ∧ ∀ j, a ≤ j → j < e → (m.read j).isSome = true := by
  induction n generalizing a with
  | zero => simp [Memory.readRange]; omega
  | succ n ih =>
    simp only [Memory.readRange]
    cases hr : m.read a with
    | none =>
      simp only [Except.error.injEq]
      constructor
      · rintro rfl
        exact ⟨le_refl _, by omega, hr, fun j h1 h2 => by omega⟩
      · rintro ⟨h1, h2, h3, h4⟩
        by_contra hne
        have := h4 a (le_refl _) (by omega)
        simp [hr] at this
    | some b =>
      have key : m.readRange (a + 1) n = .error e ↔
          a ≤ e ∧ e < a + (n + 1) ∧ m.read e = none ∧ ∀ j, a ≤ j → j < e → (m.read j).isSome = true := by
        rw [ih (a + 1)]
        constructor
        · rintro ⟨h1, h2, h3, h4⟩
          refine ⟨by omega, by omega, h3, fun j hj1 hj2 => ?_⟩
          by_cases hja : j = a
          · subst hja; simp [hr]
          · exact h4 j (by omega) hj2
        · rintro ⟨h1, h2, h3, h4⟩
          have hne : e ≠ a := by rintro rfl; rw [hr] at h3; cases h3
          exact ⟨by omega, by omega, h3, fun j hj1 hj2 => h4 j (by omega) hj2⟩
      rw [← key]
      cases m.readRange (a + 1) n <;> simp

/-- A range read looks at no address outside its range. -/
theorem Memory.readRange_congr (m m' : Memory) (a n : Nat) (h : ∀ j, a ≤ j → j < a + n → m'.read j = m.read j) :
    m'.readRange a n = m.readRange a n := by
  induction n generalizing a with
  | zero => rfl
  | succ n ih =>
    simp only [Memory.readRange, h a (le_refl _) (by omega)]
    rw [ih (a + 1) fun j h1 h2 => h j (by omega) (by omega)]

end Sys2Proof.Machine
end

