-- ==== Sys2Proof/Laws/Ops.lean ====
section
/-! SUPPORT. What each shared operation can do, said once: reads after writes, the operands a command reads, and one
inversion lemma for each shape of command ("if it answers next, then one of these holds"). -/

namespace Sys2Proof.Machine

/-! ### One byte after each update -/

section ReadByte
variable (s : State) (a : ByteArr) (i : Nat)

/-- A reader sees two states alike in an array when what the array holds, its written marks and its counter agree. -/
theorem State.readByte_congr {s t : State} (a : ByteArr) (i : Nat) (hh : t.held a i = s.held a i)
    (hw : t.written a i = s.written a i) (hd : t.drawOf a = s.drawOf a) : t.readByte a i = s.readByte a i := by
  simp only [State.readByte, hh, hw, hd]

theorem State.readByte_written {s : State} {a : ByteArr} {i : Nat} (h : s.written a i = true) :
    s.readByte a i = s.held a i := by simp only [State.readByte, h, if_true]

@[simp] theorem State.readByte_iv : s.readByte .iv i = byteAt s.iv i := rfl

theorem State.readByte_putState_state (b : Block) {i : Nat} (h : i < 16) :
    (s.putState b).readByte .state i = byteAt b i := by
  rw [State.readByte_written]
  · rfl
  · simpa [State.written] using flagAt_replicate true h

theorem State.readByte_putState_other (b : Block) (h : a ≠ .state) : (s.putState b).readByte a i = s.readByte a i := by
  cases a <;> first | rfl | exact absurd rfl h

theorem State.readByte_putResult_out (u : List Byte) :
    (s.putResult u).readByte .outBuf i =
      if i < u.length then u.getD i 0#8 else Config.unspecifiedByte .outBuf i (s.draws.out + 1) := by
  simp only [State.readByte, State.written, State.held, State.drawOf, State.putResult_outBuf, State.putResult_draws,
    Memory.read_ofBytesFrom, Nat.zero_le, if_true, Nat.sub_zero]
  by_cases h : i < u.length <;> simp [h, List.getD]

theorem State.written_putResult_out (u : List Byte) : (s.putResult u).written .outBuf i = decide (i < u.length) := by
  simp only [State.written, State.putResult_outBuf, Memory.read_ofBytesFrom, Nat.zero_le, if_true, Nat.sub_zero]
  by_cases h : i < u.length <;> simp [h]

theorem State.readByte_putResult_other (u : List Byte) (h : a ≠ .outBuf) :
    (s.putResult u).readByte a i = s.readByte a i := by
  cases a <;> first | rfl | exact absurd rfl h

theorem State.readByte_putSchedule_rk (cfg : KeyConfig) (l : List Byte) {i : Nat} (h : i < l.length) (h' : i < 240) :
    (s.putSchedule cfg l).readByte .rk i = l.getD i 0#8 := by
  rw [State.readByte_written]
  · simpa [State.held] using byteAt_buildBytes (n := 240) (fun i => l.getD i 0#8) h'
  · simpa [State.written] using h

theorem State.readByte_putSchedule_other (cfg : KeyConfig) (l : List Byte) (h : a ≠ .rk) :
    (s.putSchedule cfg l).readByte a i = s.readByte a i := by
  cases a <;>
    first
    | exact absurd rfl h
    | (apply State.readByte_congr <;>
        simp only [State.held, State.written, State.drawOf, State.putSchedule_key, State.putSchedule_iv,
          State.putSchedule_state, State.putSchedule_inBuf, State.putSchedule_outBuf, State.putSchedule_keyWritten,
          State.putSchedule_stateWritten, State.putSchedule_draws])

@[simp] theorem State.readByte_raise (e : ErrCode) (w : Word) : (s.raise e w).readByte a i = s.readByte a i := by
  cases a <;> rfl

@[simp] theorem State.readByte_noteRead (b : ByteArr) (lo n : Nat) :
    (s.noteRead b lo n).readByte a i = s.readByte a i := by
  cases a <;> rfl

@[simp] theorem State.readByte_noteRoundKeys : s.noteRoundKeys.readByte a i = s.readByte a i := by
  cases a <;> rfl

@[simp] theorem State.readByte_takeOp (rest : List HostOp) : (s.takeOp rest).readByte a i = s.readByte a i := by
  cases a <;> rfl

@[simp] theorem State.readByte_keyTouched : s.keyTouched.readByte a i = s.readByte a i := by
  cases a <;> rfl

/-- After a reset no byte of KEY, STATE, RK, IN or OUT is written (R41). -/
theorem State.written_doReset (h : a ≠ .iv) (hi : i < s.size a) : s.doReset.written a i = false := by
  cases a with
  | iv => exact absurd rfl h
  | key => simpa [State.written] using flagAt_replicate (n := 32) false hi
  | state => simpa [State.written] using flagAt_replicate (n := 16) false hi
  | rk => simp [State.written]
  | inBuf => simp [State.written, Memory.read]
  | outBuf => simp [State.written, Memory.read]

end ReadByte

/-! ### Operands -/

theorem State.byteAt_stateOperand (s : State) {i : Nat} (h : i < 16) :
    byteAt s.stateOperand i = s.readByte .state i := byteAt_blockBuild _ h

theorem State.stateOperand_putState (s : State) (b : Block) : (s.putState b).stateOperand = b :=
  block_ext fun i h => by rw [State.byteAt_stateOperand _ h, State.readByte_putState_state _ _ h]

theorem State.byteAt_roundKey (s : State) (r : Nat) {i : Nat} (h : i < 16) :
    byteAt (s.roundKey r) i = s.readByte .rk (16 * r + i) := byteAt_blockBuild _ h

theorem State.roundKey_putState (s : State) (b : Block) : (s.putState b).roundKey = s.roundKey := rfl

theorem State.roundKey_putResult (s : State) (u : List Byte) : (s.putResult u).roundKey = s.roundKey := rfl

theorem State.stateOperand_noteRead (s : State) (a : ByteArr) (lo n : Nat) :
    (s.noteRead a lo n).stateOperand = s.stateOperand := rfl

theorem State.roundKey_noteRead (s : State) (a : ByteArr) (lo n : Nat) : (s.noteRead a lo n).roundKey = s.roundKey := rfl

/-- IN as a command reads it: the bytes a host read of IN gives, when all of them are written. -/
theorem State.inOperand_ok_iff (s : State) (d : List Byte) :
    s.inOperand = .ok d ↔
      d.length = s.inlen.toNat ∧
        ∀ i, i < s.inlen.toNat → s.written .inBuf i = true ∧ s.readByte .inBuf i = d.getD i 0#8 := by
  rw [State.inOperand, Memory.readRange_ok_iff]
  constructor
  · rintro ⟨hl, h⟩
    refine ⟨hl, fun i hi => ?_⟩
    have h2 := h i hi
    rw [Nat.zero_add, List.getElem?_eq_getElem (by omega)] at h2
    have hw : s.written .inBuf i = true := by simp [State.written, h2]
    exact ⟨hw, by rw [State.readByte_written hw]; simp [State.held, h2, List.getElem?_eq_getElem (show i < d.length by omega)]⟩
  · rintro ⟨hl, h⟩
    refine ⟨hl, fun i hi => ?_⟩
    obtain ⟨hw, hr⟩ := h i hi
    rw [State.readByte_written hw] at hr
    simp only [State.written, Option.isSome_iff_exists] at hw
    obtain ⟨b, hb⟩ := hw
    rw [Nat.zero_add, hb]
    simp only [State.held, hb, Option.getD_some] at hr
    rw [hr, List.getD_eq_getElem _ _ (by omega), List.getElem?_eq_getElem]

/-- IN stops a command at its first unwritten byte below INLEN. -/
theorem State.inOperand_error_iff (s : State) (e : Nat) :
    s.inOperand = .error e ↔
      e < s.inlen.toNat ∧ s.written .inBuf e = false ∧ ∀ i, i < e → s.written .inBuf i = true := by
  rw [State.inOperand, Memory.readRange_error_iff]
  simp [State.written]

/-- When every byte of IN[0..INLEN) is written, the operand is there. -/
theorem State.inOperand_exists (s : State) (h : ∀ i, i < s.inlen.toNat → s.written .inBuf i = true) :
    s.inOperand = .ok ((List.range s.inlen.toNat).map fun i => s.readByte .inBuf i) := by
  rw [State.inOperand_ok_iff]
  refine ⟨by simp, fun i hi => ⟨h i hi, ?_⟩⟩
  simp [hi]

/-! ### Lengths -/

theorem length_padBytes (d : List Byte) (bs : Nat) : (padBytes d bs).length = d.length + padCount d.length bs := by
  simp [padBytes]

theorem padCount_pos (n : Nat) {bs : Nat} (h : 0 < bs) : 0 < padCount n bs := by
  have := Nat.mod_lt n h
  unfold padCount; omega

theorem padCount_le (n bs : Nat) : padCount n bs ≤ bs := Nat.sub_le _ _

/-- A padded length is a multiple of the block size (R181). -/
theorem padCount_multiple (n : Nat) {bs : Nat} (h : 0 < bs) : n + padCount n bs = bs * (n / bs + 1) := by
  have h1 := Nat.div_add_mod n bs
  have h2 := Nat.mod_lt n h
  unfold padCount
  rw [Nat.mul_add, Nat.mul_one]
  omega

theorem length_cbcEncrypt (e : Block → Block) (prev : Block) (ps : List Block) :
    (cbcEncrypt e prev ps).length = ps.length := by
  induction ps generalizing prev with
  | nil => rfl
  | cons p ps ih => simp [cbcEncrypt, ih]

theorem length_cbcDecrypt (d : Block → Block) (prev : Block) (cs : List Block) :
    (cbcDecrypt d prev cs).length = cs.length := by
  induction cs generalizing prev with
  | nil => rfl
  | cons c cs ih => simp [cbcDecrypt, ih]

theorem length_unpadPermissive_le (d : List Byte) : (unpadPermissive d).length ≤ d.length := by
  unfold unpadPermissive; split <;> simp

theorem length_unpadStrict_le {d u : List Byte} {pmax : Nat} (h : unpadStrict d pmax = some u) : u.length ≤ d.length := by
  unfold unpadStrict at h
  split at h
  · cases h
  · split at h
    · cases h; simp
    · cases h

theorem State.length_unpad_le {s : State} {pmax : Nat} {d u : List Byte} (h : s.unpad pmax d = some u) :
    u.length ≤ d.length := by
  unfold State.unpad at h
  split at h
  · exact length_unpadStrict_le h
  · cases h; exact length_unpadPermissive_le d

/-! ### What each shape of command can answer -/

theorem command_live {s : State} (h : s.faulted = false) (r : Result) : command s r = r := by simp [command, h]

theorem command_faulted {s : State} (h : s.faulted = true) (r : Result) : command s r = .next s := by simp [command, h]

theorem roundCommand_live (f : Block → Block) {s : State} (h : s.faulted = false) :
    roundCommand f s = .next ((s.noteRead .state 0 16).putState (f s.stateOperand)) := command_live h _

theorem roundCommand_cases {f : Block → Block} {s t : State} (h : roundCommand f s = .next t) :
    (s.faulted = true ∧ t = s) ∨
      (s.faulted = false ∧ t = (s.noteRead .state 0 16).putState (f s.stateOperand)) := by
  cases hf : s.faulted
  · rw [roundCommand_live f hf] at h; cases h; exact .inr ⟨rfl, rfl⟩
  · rw [roundCommand, command_faulted hf] at h; cases h; exact .inl ⟨rfl, rfl⟩

theorem execAddrk_cases {r : Nat} {s t : State} (h : execAddrk r s = .next t) :
    (s.faulted = true ∧ t = s) ∨
    (s.faulted = false ∧ s.keyValid = false ∧ t = s.raise .noKeySchedule (encode (.addrk r))) ∨
    (s.faulted = false ∧ s.keyValid = true ∧ s.nr < r ∧ t = s.raise .roundIndexRange (encode (.addrk r))) ∨
    (s.faulted = false ∧ s.keyValid = true ∧ r ≤ s.nr ∧
      t = ((s.noteRead .state 0 16).noteRead .rk (16 * r) 16).putState (xorBlock s.stateOperand (s.roundKey r))) := by
  cases hf : s.faulted
  · rw [execAddrk, command_live hf] at h
    cases hk : s.keyValid
    · simp only [hk, Bool.not_false, if_true, fail] at h; cases h; exact .inr (.inl ⟨rfl, rfl, rfl⟩)
    · by_cases hr : s.nr < r
      · simp only [hk, hr, Bool.not_true, Bool.false_eq_true, if_false, if_true, fail] at h
        cases h; exact .inr (.inr (.inl ⟨rfl, rfl, hr, rfl⟩))
      · simp only [hk, hr, Bool.not_true, Bool.false_eq_true, if_false] at h
        cases h; exact .inr (.inr (.inr ⟨rfl, rfl, by omega, rfl⟩))
  · rw [execAddrk, command_faulted hf] at h; cases h; exact .inl ⟨rfl, rfl⟩

theorem execKeyexp_cases {s t : State} (h : execKeyexp s = .next t) :
    (s.faulted = true ∧ t = s) ∨
    (s.faulted = false ∧ keyConfig s.keylen.toNat = none ∧ t = s.raise .invalidKeyLength (encode .keyexp)) ∨
    (s.faulted = false ∧ ∃ cfg, keyConfig s.keylen.toNat = some cfg ∧
      t = (s.noteRead .key 0 cfg.keyBytes).putSchedule cfg
        (keyExpansion (s.keyOperand cfg.keyBytes) cfg.nk cfg.nr)) := by
  cases hf : s.faulted
  · rw [execKeyexp, command_live hf] at h
    cases hc : keyConfig s.keylen.toNat with
    | none => simp only [hc, fail] at h; cases h; exact .inr (.inl ⟨rfl, rfl, rfl⟩)
    | some cfg => simp only [hc] at h; cases h; exact .inr (.inr ⟨rfl, cfg, rfl, rfl⟩)
  · rw [execKeyexp, command_faulted hf] at h; cases h; exact .inl ⟨rfl, rfl⟩

theorem blockCommand_cases {w : Word} {f : Block → Block} {s t : State} (h : blockCommand w f s = .next t) :
    (s.faulted = true ∧ t = s) ∨
    (s.faulted = false ∧ s.keyValid = false ∧ t = s.raise .noKeySchedule w) ∨
    (s.faulted = false ∧ s.keyValid = true ∧
      t = (s.noteRead .state 0 16).noteRoundKeys.putState (f s.stateOperand)) := by
  cases hf : s.faulted
  · rw [blockCommand, command_live hf] at h
    cases hk : s.keyValid
    · simp only [hk, Bool.not_false, if_true, fail] at h; cases h; exact .inr (.inl ⟨rfl, rfl, rfl⟩)
    · simp only [hk, Bool.not_true, Bool.false_eq_true, if_false] at h; cases h; exact .inr (.inr ⟨rfl, rfl, rfl⟩)
  · rw [blockCommand, command_faulted hf] at h; cases h; exact .inl ⟨rfl, rfl⟩

theorem finishUnpad_cases {w : Word} {pmax : Nat} {q : List Byte} {s noted t : State}
    (h : finishUnpad w pmax q s noted = .next t) :
    (s.unpad pmax q = none ∧ t = s.raise .paddingInvalid w) ∨
    (∃ u, s.unpad pmax q = some u ∧ t = noted.putResult u) := by
  unfold finishUnpad at h
  cases hu : s.unpad pmax q with
  | none => simp only [hu, fail] at h; cases h; exact .inl ⟨rfl, rfl⟩
  | some u => simp only [hu] at h; cases h; exact .inr ⟨u, rfl, rfl⟩

/-- PAD answers next in one of these ways only: ignored, an error of R233, or the padded IN in OUT. -/
theorem execPad_cases {bs : Nat} {s t : State} (h : execPad bs s = .next t) :
    (s.faulted = true ∧ t = s) ∨
    (s.faulted = false ∧ ∃ e, t = s.raise e (encode (.pad bs)) ∧ (e = .invalidBlockSize ∨ e = .capacityExceeded)) ∨
    (s.faulted = false ∧ bs ≠ 0 ∧ ∃ d, s.inOperand = .ok d ∧ s.inlen.toNat + padCount s.inlen.toNat bs ≤ s.bufBytes ∧
      t = s.putResult (padBytes d bs)) := by
  cases hf : s.faulted
  · rw [execPad, command_live hf] at h
    split at h
    · cases h; exact .inr (.inl ⟨rfl, _, rfl, .inl rfl⟩)
    · split at h
      · cases h; exact .inr (.inl ⟨rfl, _, rfl, .inr rfl⟩)
      · split at h
        · cases h; exact .inr (.inl ⟨rfl, _, rfl, .inr rfl⟩)
        · next hb _ hc =>
          cases hd : s.inOperand with
          | error a => simp only [hd] at h; cases h
          | ok d => simp only [hd] at h; cases h; exact .inr (.inr ⟨rfl, hb, d, rfl, by omega, rfl⟩)
  · rw [execPad, command_faulted hf] at h; cases h; exact .inl ⟨rfl, rfl⟩

theorem execUnpad_cases {s t : State} (h : execUnpad s = .next t) :
    (s.faulted = true ∧ t = s) ∨
    (s.faulted = false ∧ ∃ e, t = s.raise e (encode .unpad) ∧
      (e = .capacityExceeded ∨ e = .emptyInput ∨ e = .paddingInvalid)) ∨
    (s.faulted = false ∧ ∃ d u, s.inOperand = .ok d ∧ s.inlen.toNat ≤ s.bufBytes ∧ s.unpad 255 d = some u ∧
      t = s.putResult u) := by
  cases hf : s.faulted
  · rw [execUnpad, command_live hf] at h
    split at h
    · cases h; exact .inr (.inl ⟨rfl, _, rfl, .inl rfl⟩)
    · split at h
      · cases h; exact .inr (.inl ⟨rfl, _, rfl, .inr (.inl rfl)⟩)
      · next hc _ =>
        cases hd : s.inOperand with
        | error a => simp only [hd] at h; cases h
        | ok d =>
          simp only [hd] at h
          rcases finishUnpad_cases h with ⟨_, rfl⟩ | ⟨u, hu, rfl⟩
          · exact .inr (.inl ⟨rfl, _, rfl, .inr (.inr rfl)⟩)
          · exact .inr (.inr ⟨rfl, d, u, rfl, by omega, hu, rfl⟩)
  · rw [execUnpad, command_faulted hf] at h; cases h; exact .inl ⟨rfl, rfl⟩

theorem encryptBuffer_cases {w : Word} {f : List Block → List Block} {s t : State}
    (h : encryptBuffer w f s = .next t) :
    (s.faulted = true ∧ t = s) ∨
    (s.faulted = false ∧ ∃ e, t = s.raise e w ∧ (e = .noKeySchedule ∨ e = .capacityExceeded)) ∨
    (s.faulted = false ∧ s.keyValid = true ∧ ∃ d, s.inOperand = .ok d ∧
      s.inlen.toNat + padCount s.inlen.toNat 16 ≤ s.bufBytes ∧
      t = s.noteRoundKeys.putResult (joinBlocks (f (splitBlocks (padBytes d 16))))) := by
  cases hf : s.faulted
  · rw [encryptBuffer, command_live hf] at h
    cases hk : s.keyValid
    · simp only [hk, Bool.not_false, if_true, fail] at h; cases h; exact .inr (.inl ⟨rfl, _, rfl, .inl rfl⟩)
    · simp only [hk, Bool.not_true, Bool.false_eq_true, if_false] at h
      split at h
      · cases h; exact .inr (.inl ⟨rfl, _, rfl, .inr rfl⟩)
      · split at h
        · cases h; exact .inr (.inl ⟨rfl, _, rfl, .inr rfl⟩)
        · next _ hc =>
          cases hd : s.inOperand with
          | error a => simp only [hd] at h; cases h
          | ok d => simp only [hd] at h; cases h; exact .inr (.inr ⟨rfl, rfl, d, rfl, by omega, rfl⟩)
  · rw [encryptBuffer, command_faulted hf] at h; cases h; exact .inl ⟨rfl, rfl⟩

theorem decryptBuffer_cases {w : Word} {f : List Block → List Block} {s t : State}
    (h : decryptBuffer w f s = .next t) :
    (s.faulted = true ∧ t = s) ∨
    (s.faulted = false ∧ ∃ e, t = s.raise e w ∧ (e = .noKeySchedule ∨ e = .capacityExceeded ∨ e = .emptyInput ∨
      e = .partialFinalBlock ∨ e = .paddingInvalid)) ∨
    (s.faulted = false ∧ s.keyValid = true ∧ ∃ c u, s.inOperand = .ok c ∧ s.inlen.toNat ≤ s.bufBytes ∧
      s.inlen.toNat % 16 = 0 ∧ s.unpad 16 (joinBlocks (f (splitBlocks c))) = some u ∧
      t = s.noteRoundKeys.putResult u) := by
  cases hf : s.faulted
  · rw [decryptBuffer, command_live hf] at h
    cases hk : s.keyValid
    · simp only [hk, Bool.not_false, if_true, fail] at h; cases h; exact .inr (.inl ⟨rfl, _, rfl, .inl rfl⟩)
    · simp only [hk, Bool.not_true, Bool.false_eq_true, if_false] at h
      split at h
      · cases h; exact .inr (.inl ⟨rfl, _, rfl, .inr (.inl rfl)⟩)
      · split at h
        · cases h; exact .inr (.inl ⟨rfl, _, rfl, .inr (.inr (.inl rfl))⟩)
        · split at h
          · cases h; exact .inr (.inl ⟨rfl, _, rfl, .inr (.inr (.inr (.inl rfl)))⟩)
          · next hc _ hm =>
            cases hd : s.inOperand with
            | error a => simp only [hd] at h; cases h
            | ok c =>
              simp only [hd] at h
              rcases finishUnpad_cases h with ⟨_, rfl⟩ | ⟨u, hu, rfl⟩
              · exact .inr (.inl ⟨rfl, _, rfl, .inr (.inr (.inr (.inr rfl)))⟩)
              · exact .inr (.inr ⟨rfl, rfl, c, u, rfl, by omega, by omega, hu, rfl⟩)
  · rw [decryptBuffer, command_faulted hf] at h; cases h; exact .inl ⟨rfl, rfl⟩

end Sys2Proof.Machine
end

