-- ==== Sys2Proof/Laws/Checked.lean ====
section
/-! SUPPORT. The checked machine beside the machine: it stops more often and never goes anywhere else. -/

namespace Sys2Proof.Machine

theorem State.allWritten_eq_true (s : State) (a : ByteArr) (lo n : Nat) :
    s.allWritten a lo n = true ↔ ∀ j, j < n → s.written a (lo + j) = true := by
  simp [State.allWritten]

theorem ByteRange.firstUnwritten_eq_none (s : State) (g : ByteRange) :
    g.firstUnwritten s = none ↔ ∀ j, j < g.len → s.written g.arr (g.lo + j) = true := by
  simp [ByteRange.firstUnwritten]

theorem ByteRange.firstUnwritten_eq_some {s : State} {g : ByteRange} {p : ByteArr × Nat}
    (h : g.firstUnwritten s = some p) : s.written p.1 p.2 = false := by
  simp only [ByteRange.firstUnwritten, Option.map_eq_some_iff] at h
  obtain ⟨j, hj, rfl⟩ := h
  simpa using List.find?_some hj

/-- No operand byte is unwritten exactly when every range is written throughout. -/
theorem unwrittenRegister_eq_none (i : Instr) (s : State) :
    unwrittenRegister i s = none ↔
      ∀ g ∈ registerOperands i s, ∀ j, j < g.len → s.written g.arr (g.lo + j) = true := by
  simp only [unwrittenRegister, List.findSome?_eq_none_iff, ByteRange.firstUnwritten_eq_none]

/-- The byte named is unwritten. -/
theorem unwrittenRegister_eq_some {i : Instr} {s : State} {p : ByteArr × Nat} (h : unwrittenRegister i s = some p) :
    s.written p.1 p.2 = false := by
  obtain ⟨g, _, hg⟩ := List.exists_of_findSome?_eq_some h
  exact ByteRange.firstUnwritten_eq_some hg

/-- With its operands written, a command of the checked machine is the command. -/
theorem checkedExec_of_written {i : Instr} {s : State} (h : unwrittenRegister i s = none) : checkedExec i s = exec i s := by
  unfold checkedExec
  rw [h]
  cases exec i s <;> simp

/-- Where a command ends on a condition of orders 0 to 7, the checked machine ends the same way. -/
theorem checkedExec_of_not_passed {i : Instr} {s t : State} (h : exec i s = .next t) (hp : passedChecks s t = false) :
    checkedExec i s = .next t := by
  simp [checkedExec, h, hp]

theorem checkedExec_of_fault {i : Instr} {s : State} {f : Fault} (h : exec i s = .fault f) : checkedExec i s = .fault f := by
  simp only [checkedExec, h]

/-- Past the checks, an unwritten operand byte is the model fault. -/
theorem checkedExec_of_unwritten {i : Instr} {s t : State} {p : ByteArr × Nat} (h : exec i s = .next t)
    (hp : passedChecks s t = true) (hu : unwrittenRegister i s = some p) :
    checkedExec i s = .fault (.unwrittenRegister p.1 p.2) := by
  simp [checkedExec, h, hp, hu]

/-- A next state of the checked machine's command is the command's. -/
theorem exec_of_checkedExec {i : Instr} {s t : State} (h : checkedExec i s = .next t) : exec i s = .next t := by
  unfold checkedExec at h
  split at h
  · next u hu =>
    split at h
    · split at h
      · cases h
      · cases h; exact hu
    · cases h; exact hu
  · cases h
  · cases h

/-- Every step of the checked machine that answers a next state is a step of the machine, so what every step keeps, the
checked machine keeps. -/
theorem step_of_checkedStep {s t : State} (h : checkedStep s = .next t) : step s = .next t := by
  unfold checkedStep stepWith at h
  unfold step stepWith
  split at h
  · exact h
  · next op rest _ =>
    cases op with
    | writeReg r v =>
      cases r <;> simp only [hostStep, writeReg] at h ⊢ <;> try exact h
      unfold issueCommand command at h ⊢
      split at h
      · next hf => simpa [hf] using h
      · next hf =>
        rw [if_neg hf]
        split at h
        · exact h
        · exact exec_of_checkedExec h
    | _ => exact h

/-- A command that completes adds to the record exactly what the checked machine stops on: the two machines read the same
operand bytes. -/
theorem exec_unwrittenRead {i : Instr} {s t : State} (hf : s.faulted = false) (h : exec i s = .next t)
    (ht : t.faulted = false) : t.unwrittenRead = (s.unwrittenRead || (unwrittenRegister i s).isSome) := by
  have key : ∀ b, (unwrittenRegister i s).isSome = b ↔
      ((∀ g ∈ registerOperands i s, ∀ j, j < g.len → s.written g.arr (g.lo + j) = true) ↔ b = false) := by
    intro b; rw [← unwrittenRegister_eq_none]; cases unwrittenRegister i s <;> cases b <;> simp
  cases i <;> simp only [exec] at h
  case keyexp =>
    rcases execKeyexp_cases h with ⟨hf', rfl⟩ | ⟨_, _, rfl⟩ | ⟨_, cfg, hc, rfl⟩
    · simp_all
    · simp at ht
    · simp only [State.putSchedule, State.noteRead]
      congr 1; symm; rw [key]
      simp only [registerOperands, List.mem_singleton, forall_eq, Bool.not_eq_false', State.allWritten_eq_true,
        (keyConfig_some hc).2.1]
  case addrk r =>
    rcases execAddrk_cases h with ⟨hf', rfl⟩ | ⟨_, _, rfl⟩ | ⟨_, _, _, rfl⟩ | ⟨_, _, _, rfl⟩
    · simp_all
    · simp at ht
    · simp at ht
    · simp only [State.putState, State.noteRead, Bool.or_assoc]
      congr 1; symm; rw [key]
      simp [registerOperands, State.allWritten_eq_true, State.written]
  case pad bs =>
    rcases execPad_cases h with ⟨hf', rfl⟩ | ⟨_, e, rfl, _⟩ | ⟨_, _, d, _, _, rfl⟩
    · simp_all
    · simp at ht
    · simp [unwrittenRegister, registerOperands]
  case unpad =>
    rcases execUnpad_cases h with ⟨hf', rfl⟩ | ⟨_, e, rfl, _⟩ | ⟨_, d, u, _, _, _, rfl⟩
    · simp_all
    · simp at ht
    · simp [unwrittenRegister, registerOperands]
  case encblk | decblk =>
    rcases blockCommand_cases h with ⟨hf', rfl⟩ | ⟨_, _, rfl⟩ | ⟨_, _, rfl⟩
    · simp_all
    · simp at ht
    · simp only [State.putState, State.noteRead, State.noteRoundKeys, Bool.or_assoc]
      congr 1; symm; rw [key]
      simp [registerOperands, State.allWritten_eq_true, State.written, State.nr]
  case ecbenc | cbcenc =>
    rcases encryptBuffer_cases h with ⟨hf', rfl⟩ | ⟨_, e, rfl, _⟩ | ⟨_, _, d, _, _, rfl⟩
    · simp_all
    · simp at ht
    · simp only [State.putResult, State.noteRead, State.noteRoundKeys]
      congr 1; symm; rw [key]
      simp [registerOperands, State.allWritten_eq_true, State.written, State.nr]
  case ecbdec | cbcdec =>
    rcases decryptBuffer_cases h with ⟨hf', rfl⟩ | ⟨_, e, rfl, _⟩ | ⟨_, _, c, u, _, _, _, _, rfl⟩
    · simp_all
    · simp at ht
    · simp only [State.putResult, State.noteRead, State.noteRoundKeys]
      congr 1; symm; rw [key]
      simp [registerOperands, State.allWritten_eq_true, State.written, State.nr]
  all_goals
    rcases roundCommand_cases h with ⟨hf', rfl⟩ | ⟨_, rfl⟩
    · simp_all
    · simp only [State.putState, State.noteRead]
      congr 1; symm; rw [key]
      simp [registerOperands, State.allWritten_eq_true, State.written]

end Sys2Proof.Machine
end

