-- ==== Sys2Proof/Laws/PerInstr.lean ====
section
/-! SUPPORT. The family EncodeFields, one lemma per command: the fields of the word that encodes it are its opcode, its ARG
and RSV = 0 (30_encoding.md R70, R77), and it is well formed exactly when ARG gives its operand back (R74). -/

namespace Sys2Proof

theorem opField_encode (i : Instr) : opField (encode i) = opcode i := by
  apply BitVec.eq_of_getLsbD_eq
  intro j hj
  have h1 : j < 32 := by omega
  simp [opField, encode, hj, h1]

theorem argField_encode (i : Instr) : argField (encode i) = argument i := by
  apply BitVec.eq_of_getLsbD_eq
  intro j hj
  have h1 : 8 + j < 32 := by omega
  simp [argField, encode, hj, h1]

theorem rsvField_encode (i : Instr) : rsvField (encode i) = 0#16 := by
  apply BitVec.eq_of_getLsbD_eq
  intro j hj
  have h1 : ¬16 + j < 8 := by omega
  have h2 : 8 ≤ 16 + j - 8 := by omega
  have h3 : 8 ≤ 16 + j := by omega
  simp [rsvField, encode, h1, BitVec.getLsbD_of_ge _ _ h2, BitVec.getLsbD_of_ge _ _ h3]

/-- The operand that ARG gives a command of this opcode (R74). -/
def withArgument (a : Byte) : Instr → Instr
  | .addrk _ => .addrk a.toNat
  | .pad _ => .pad a.toNat
  | .cbcenc _ => .cbcenc (a.getLsbD 0)
  | .cbcdec _ => .cbcdec (a.getLsbD 0)
  | .keyexp => .keyexp
  | .subbytes => .subbytes
  | .invsubbytes => .invsubbytes
  | .shiftrows => .shiftrows
  | .invshiftrows => .invshiftrows
  | .mixcolumns => .mixcolumns
  | .invmixcolumns => .invmixcolumns
  | .encblk => .encblk
  | .decblk => .decblk
  | .unpad => .unpad
  | .ecbenc => .ecbenc
  | .ecbdec => .ecbdec

namespace Laws.EncodeFields

/-- The fields of the command word, and the operand read back from it. -/
def Statement (i : Instr) : Prop :=
  opField (encode i) = opcode i ∧ argField (encode i) = argument i ∧ rsvField (encode i) = 0#16 ∧
    (i.wf = true ↔ withArgument (argument i) i = i)

theorem fields (i : Instr) (h : i.wf = true ↔ withArgument (argument i) i = i) : Statement i :=
  ⟨opField_encode i, argField_encode i, rsvField_encode i, h⟩

theorem keyexp : Statement .keyexp := fields _ (by decide)
theorem subbytes : Statement .subbytes := fields _ (by decide)
theorem invsubbytes : Statement .invsubbytes := fields _ (by decide)
theorem shiftrows : Statement .shiftrows := fields _ (by decide)
theorem invshiftrows : Statement .invshiftrows := fields _ (by decide)
theorem mixcolumns : Statement .mixcolumns := fields _ (by decide)
theorem invmixcolumns : Statement .invmixcolumns := fields _ (by decide)
theorem addrk (r : Nat) : Statement (.addrk r) := fields _ (by simp [Instr.wf, withArgument, argument])
theorem encblk : Statement .encblk := fields _ (by decide)
theorem decblk : Statement .decblk := fields _ (by decide)
theorem pad (bs : Nat) : Statement (.pad bs) := fields _ (by simp [Instr.wf, withArgument, argument])
theorem unpad : Statement .unpad := fields _ (by decide)
theorem ecbenc : Statement .ecbenc := fields _ (by decide)
theorem ecbdec : Statement .ecbdec := fields _ (by decide)
theorem cbcenc (z : Bool) : Statement (.cbcenc z) := fields _ (by cases z <;> decide)
theorem cbcdec (z : Bool) : Statement (.cbcdec z) := fields _ (by cases z <;> decide)

end Laws.EncodeFields

end Sys2Proof
end

