-- ==== Sys2Proof/Laws/Step.lean ====
section
/-! SUPPORT. What a command, and a step, can answer, said once over all commands and all host operations. -/

namespace Sys2Proof.Machine

/-- How a command can end in a next state: ignored, a fault record, a schedule, a new STATE or a new OUT (`u` is the
record of UnwrittenRead it leaves). -/
inductive Answer (i : Instr) (s : State) : State → Prop
  | ignored (h : s.faulted = true) : Answer i s s
  | fault (e : ErrCode) (he : e ≠ .invalidBlockLength) (h : s.faulted = false) : Answer i s (s.raise e (encode i))
  | schedule (u : Bool) (cfg : KeyConfig) (hi : i = .keyexp) (hc : keyConfig s.keylen.toNat = some cfg)
      (h : s.faulted = false) :
      Answer i s (State.putSchedule cfg (keyExpansion (s.keyOperand cfg.keyBytes) cfg.nk cfg.nr)
        { s with unwrittenRead := u })
  | state (u : Bool) (b : Block) (h : s.faulted = false) : Answer i s (State.putState b { s with unwrittenRead := u })
  | out (u : Bool) (l : List Byte) (hl : l.length ≤ s.bufBytes) (h : s.faulted = false) :
      Answer i s (State.putResult l { s with unwrittenRead := u })

theorem roundCommand_answer {i : Instr} {f : Block → Block} {s t : State} (h : roundCommand f s = .next t) :
    Answer i s t := by
  rcases roundCommand_cases h with ⟨hf, rfl⟩ | ⟨hf, rfl⟩
  · exact .ignored hf
  · exact .state _ _ hf

theorem blockCommand_answer {i : Instr} {f : Block → Block} {s t : State}
    (h : blockCommand (encode i) f s = .next t) : Answer i s t := by
  rcases blockCommand_cases h with ⟨hf, rfl⟩ | ⟨hf, _, rfl⟩ | ⟨hf, _, rfl⟩
  · exact .ignored hf
  · exact .fault _ (by decide) hf
  · exact .state _ _ hf

theorem encryptBuffer_answer {i : Instr} {f : List Block → List Block} (hfl : ∀ l, (f l).length = l.length) {s t : State}
    (h : encryptBuffer (encode i) f s = .next t) : Answer i s t := by
  rcases encryptBuffer_cases h with ⟨hf, rfl⟩ | ⟨hf, e, rfl, he⟩ | ⟨hf, _, d, hd, hb, rfl⟩
  · exact .ignored hf
  · exact .fault _ (by rcases he with rfl | rfl <;> decide) hf
  · refine .out _ _ ?_ hf
    rw [length_joinBlocks, hfl, splitBlocks, length_blocksOf, length_padBytes, ((State.inOperand_ok_iff s d).mp hd).1]
    omega

theorem decryptBuffer_answer {i : Instr} {f : List Block → List Block} (hfl : ∀ l, (f l).length = l.length) {s t : State}
    (h : decryptBuffer (encode i) f s = .next t) : Answer i s t := by
  rcases decryptBuffer_cases h with ⟨hf, rfl⟩ | ⟨hf, e, rfl, he⟩ | ⟨hf, _, c, u, hc, hb, hm, hu, rfl⟩
  · exact .ignored hf
  · exact .fault _ (by rcases he with rfl | rfl | rfl | rfl | rfl <;> decide) hf
  · refine .out _ _ ?_ hf
    have h2 := State.length_unpad_le hu
    rw [length_joinBlocks, hfl, splitBlocks, length_blocksOf, ((State.inOperand_ok_iff s c).mp hc).1] at h2
    omega

/-- Every next state of every command is one of the five answers. -/
theorem exec_answer {i : Instr} {s t : State} (h : exec i s = .next t) : Answer i s t := by
  cases i <;> simp only [exec] at h
  case keyexp =>
    rcases execKeyexp_cases h with ⟨hf, rfl⟩ | ⟨hf, _, rfl⟩ | ⟨hf, cfg, hc, rfl⟩
    · exact .ignored hf
    · exact .fault _ (by decide) hf
    · exact .schedule _ cfg rfl hc hf
  case addrk r =>
    rcases execAddrk_cases h with ⟨hf, rfl⟩ | ⟨hf, _, rfl⟩ | ⟨hf, _, _, rfl⟩ | ⟨hf, _, _, rfl⟩
    · exact .ignored hf
    · exact .fault _ (by decide) hf
    · exact .fault _ (by decide) hf
    · exact .state _ _ hf
  case pad bs =>
    rcases execPad_cases h with ⟨hf, rfl⟩ | ⟨hf, e, rfl, he⟩ | ⟨hf, _, d, hd, hb, rfl⟩
    · exact .ignored hf
    · exact .fault _ (by rcases he with rfl | rfl <;> decide) hf
    · refine .out s.unwrittenRead _ ?_ hf
      rw [length_padBytes, ((State.inOperand_ok_iff s d).mp hd).1]
      omega
  case unpad =>
    rcases execUnpad_cases h with ⟨hf, rfl⟩ | ⟨hf, e, rfl, he⟩ | ⟨hf, d, u, hd, hb, hu, rfl⟩
    · exact .ignored hf
    · exact .fault _ (by rcases he with rfl | rfl | rfl <;> decide) hf
    · refine .out s.unwrittenRead _ ?_ hf
      have h1 := ((State.inOperand_ok_iff s d).mp hd).1
      have h2 := State.length_unpad_le hu
      omega
  case encblk | decblk => exact blockCommand_answer h
  case ecbenc => exact encryptBuffer_answer (fun l => by simp) h
  case ecbdec => exact decryptBuffer_answer (fun l => by simp) h
  case cbcenc z => exact encryptBuffer_answer (fun l => length_cbcEncrypt _ _ l) h
  case cbcdec z => exact decryptBuffer_answer (fun l => length_cbcDecrypt _ _ l) h
  all_goals exact roundCommand_answer h

/-- A step takes the operation at the head of the host's list, or holds the state. -/
theorem step_next {s t : State} (h : step s = .next t) :
    (s.hostOps = [] ∧ t = s) ∨ ∃ op rest, s.hostOps = op :: rest ∧ hostStep exec op (s.takeOp rest) = .next t := by
  have h' : stepWith exec s = .next t := h
  unfold stepWith at h'
  split at h'
  · next h0 => cases h'; exact .inl ⟨h0, rfl⟩
  · next op rest hop => exact .inr ⟨op, rest, hop, h'⟩

/-- A property is kept by every step if every host operation keeps it: a command's answer, an illegal word's fault record,
RESET, a register write, a byte write, a read, and taking the operation off the list. -/
theorem step_invariant (P : State → Prop) (htake : ∀ s rest, P s → P (s.takeOp rest))
    (hreply : ∀ s v, P s → P { s with reply := v }) (hexec : ∀ i s t, P s → Answer i s t → P t)
    (hillegal : ∀ s w, s.faulted = false → P s → P (s.raise .illegalCommand w)) (hreset : ∀ s, P s → P s.doReset)
    (hkeylen : ∀ s v, P s → P ({ s with keylen := v }).keyTouched)
    (hctrl : ∀ s v, P s → P { s with ctrl := ctrlOnWrite v }) (hinlen : ∀ s v, P s → P { s with inlen := v })
    (hbyte : ∀ s a i b, i < s.size a → P s → P (s.writeByte a i b)) : ∀ s t, P s → step s = .next t → P t := by
  intro s t hs h
  rcases step_next h with ⟨_, rfl⟩ | ⟨op, rest, _, h⟩
  · exact hs
  have hs := htake s rest hs
  generalize s.takeOp rest = s' at h hs
  cases op with
  | reset => cases h; exact hreset _ hs
  | writeReg r v =>
    cases r <;> simp only [hostStep, writeReg] at h
    case cmd =>
      unfold issueCommand command at h
      split at h
      · cases h; exact hs
      · next hf =>
        cases hd : decode v with
        | none => rw [hd] at h; cases h; exact hillegal _ _ (by simpa using hf) hs
        | some i => rw [hd] at h; exact hexec _ _ _ hs (exec_answer h)
    case keylen => cases h; exact hkeylen _ _ hs
    case ctrl => cases h; exact hctrl _ _ hs
    case inlen => cases h; exact hinlen _ _ hs
    all_goals cases h; exact hs
  | readReg r => cases h; exact hreply _ _ hs
  | writeByte a i b =>
    simp only [hostStep] at h
    split at h
    · next hi => cases h; exact hbyte _ _ _ _ hi hs
    · cases h
  | readByte a i =>
    simp only [hostStep] at h
    split at h
    · cases h; exact hreply _ _ hs
    · cases h

end Sys2Proof.Machine
end

