-- ==== Sys2Proof/Machine/Assembler.lean ====
section
/-! DEFINITION. The assembler syntax of command lines (30_encoding.md R77): one command a line, mnemonic in lower case,
then its operand; a comment starts with `;`. A program text is no state of the machine; this is the spec's own notation
for command words (log entry 14 fixes what counts as blank). -/

namespace Sys2Proof.Machine

def isBlank (c : Char) : Bool := c == ' ' || c == '\t'

/-- The blank-separated words of a text; `cur` is the word under way, newest character first. -/
def wordsFrom : List Char → List Char → List (List Char)
  | [], cur => if cur.isEmpty then [] else [cur.reverse]
  | c :: cs, cur =>
    if isBlank c then
      if cur.isEmpty then wordsFrom cs [] else cur.reverse :: wordsFrom cs []
    else wordsFrom cs (c :: cur)

/-- The words of a line before its comment. -/
def lineWords (line : List Char) : List (List Char) := wordsFrom (line.takeWhile (· != ';')) []

/-- The value of a digit in base `base`. -/
def digitValue (base : Nat) (c : Char) : Option Nat :=
  let v :=
    if '0' ≤ c ∧ c ≤ '9' then c.toNat - '0'.toNat
    else if 'a' ≤ c ∧ c ≤ 'f' then c.toNat - 'a'.toNat + 10
    else if 'A' ≤ c ∧ c ≤ 'F' then c.toNat - 'A'.toNat + 10
    else base
  if v < base then some v else none

/-- The digits of a number after the value `acc` of those read so far. -/
def parseDigits (base : Nat) : List Char → Nat → Option Nat
  | [], acc => some acc
  | c :: cs, acc =>
    match digitValue base c with
    | none => none
    | some d => parseDigits base cs (acc * base + d)

/-- "decimal or `0x` hex numbers 0 to 255" (R77). -/
def parseOperand (w : List Char) : Option Nat :=
  let value :=
    match w with
    | [] => none
    | ['0', 'x'] => none
    | '0' :: 'x' :: ds => parseDigits 16 ds 0
    | ds => parseDigits 10 ds 0
  match value with
  | some n => if n < 256 then some n else none
  | none => none

/-- The commands written as a mnemonic alone. -/
def plainMnemonics : List (String × Instr) := [
  ("keyexp", .keyexp), ("subbytes", .subbytes), ("invsubbytes", .invsubbytes), ("shiftrows", .shiftrows),
  ("invshiftrows", .invshiftrows), ("mixcolumns", .mixcolumns), ("invmixcolumns", .invmixcolumns), ("encblk", .encblk),
  ("decblk", .decblk), ("unpad", .unpad), ("ecbenc", .ecbenc), ("ecbdec", .ecbdec),
  ("cbcenc", .cbcenc false), ("cbcdec", .cbcdec false)]

/-- One command line; `none` where it is no command of R77. -/
def assemble (line : String) : Option Instr :=
  match lineWords line.toList with
  | [m] => (plainMnemonics.find? fun row => row.1.toList == m).map Prod.snd
  | [m, x] =>
    if m = "addrk".toList then (parseOperand x).map .addrk
    else if m = "pad".toList then (parseOperand x).map .pad
    else if m = "cbcenc".toList ∧ x = "ziv".toList then some (.cbcenc true)
    else if m = "cbcdec".toList ∧ x = "ziv".toList then some (.cbcdec true)
    else none
  | _ => none

end Sys2Proof.Machine
end

