-- ==== Sys2Proof/Tests/Slice0.lean ====
section
/-! SUPPORT. The model's own tests. Expected values are the vectors of spec/95_test_vectors.md, named beside each theorem,
or are worked out by hand from the rule named there; then one witness for each statement that has hypotheses. -/

namespace Sys2Proof.Tests

open Sys2Proof.Machine Sys2Proof.Claims

set_option maxRecDepth 20000

/-! ### Helpers -/

/-- The `n` bytes of a hex string, first byte leftmost (R10). -/
def hexB (n v : Nat) : List Byte := (List.range n).map fun i => BitVec.ofNat 8 (v >>> (8 * (n - 1 - i)))

/-- Does a step answer a next state with this property? -/
def after (r : Result) (f : State → Bool) : Bool :=
  match r with
  | .next t => f t
  | .fault _ => false
  | .refused _ => false

def seq16 : Nat := 0x000102030405060708090a0b0c0d0e0f
def plainP : Nat := 0x00112233445566778899aabbccddeeff
def ivA : Nat := 0x0f0e0d0c0b0a09080706050403020100

/-- The schedule of key seq, transcribed from vector L2-K1. -/
def schedSeq : List Byte :=
  hexB 48 0x000102030405060708090a0b0c0d0e0fd6aa74fdd2af72fadaa678f1d6ab76feb692cf0b643dbdf1be9bc5006830b3fe ++
  hexB 48 0xb6ff744ed2c2c9bf6c590cbf0469bf4147f7f7bc95353e03f96c32bcfd058dfd3caaa3e8a99f9deb50f3af57adf622aa ++
  hexB 48 0x5e390f7df7a69296a7553dc10aa31f6b14f9701ae35fe28c440adf4d4ea9c02647438735a41c65b9e016baf4aebf7ad2 ++
  hexB 32 0x549932d1f08557681093ed9cbe2c974e13111d7fe3944a17f307a78b4d2b30c5

/-- From reset, BUF_BYTES 64, STATE written with these bytes. -/
def withState (v : Nat) : State :=
  { State.reset with bufBytes := 64, state := blockOfBytes (hexB 16 v), stateWritten := Vector.replicate 16 true }

/-- ... and the schedule of key seq in RK (STATUS 0x00000a42). -/
def keyed (v : Nat) : State :=
  { withState v with rk := buildBytes 240 fun i => schedSeq.getD i 0#8, rkWritten := 176, status := 0x00000a42#32 }

/-- ... and these `n` bytes in IN, INLEN = n, CTRL = c. -/
def withIn (s : State) (n v c : Nat) : State :=
  { s with inBuf := Memory.ofBytesFrom 0 (hexB n v), inlen := BitVec.ofNat 32 n, ctrl := BitVec.ofNat 32 c }

/-- From reset, KEY[0..n) = 00, 01, ... and KEYLEN = n. -/
def withKey (n : Nat) : State :=
  { State.reset with
    key := buildBytes 32 fun i => BitVec.ofNat 8 i
    keyWritten := Vector.ofFn fun i => decide (i.val < n)
    keylen := BitVec.ofNat 8 n }

def stateIs (v : Nat) (s : State) : Bool := blockBytes s.state == hexB 16 v

/-- OUT holds exactly these `n` bytes. -/
def outIs (n v : Nat) (s : State) : Bool := s.outlen == BitVec.ofNat 32 n && s.outBuf == Memory.ofBytesFrom 0 (hexB n v)

def faultIs (status errcmd : Nat) (s : State) : Bool :=
  s.status == BitVec.ofNat 32 status && s.errcmd == BitVec.ofNat 32 errcmd

/-! ### WellFormed: an ill-formed term for each check -/

theorem test_wf_addrk : (Instr.addrk 256).wf = false ∧ (Instr.addrk 255).wf = true := by decide
theorem test_wf_pad : (Instr.pad 256).wf = false ∧ (Instr.pad 255).wf = true := by decide

/-! ### Decode: words written from the opcode map of 30_encoding.md R72 (vectors L2-D) -/

theorem test_decode_keyexp : decode 0b00000000000000000000000000000001#32 = some .keyexp := by decide
theorem test_decode_subbytes : decode 0b00000000000000000000000000010000#32 = some .subbytes := by decide
theorem test_decode_invsubbytes : decode 0b00000000000000000000000000010001#32 = some .invsubbytes := by decide
theorem test_decode_shiftrows : decode 0b00000000000000000000000000010010#32 = some .shiftrows := by decide
theorem test_decode_invshiftrows : decode 0b00000000000000000000000000010011#32 = some .invshiftrows := by decide
theorem test_decode_mixcolumns : decode 0b00000000000000000000000000010100#32 = some .mixcolumns := by decide
theorem test_decode_invmixcolumns : decode 0b00000000000000000000000000010101#32 = some .invmixcolumns := by decide
theorem test_decode_addrk : decode 0b00000000000000000000101000010110#32 = some (.addrk 10) ∧
    decode 0b00000000000000001111111100010110#32 = some (.addrk 255) := by decide
theorem test_decode_encblk : decode 0b00000000000000000000000000100000#32 = some .encblk := by decide
theorem test_decode_decblk : decode 0b00000000000000000000000000100001#32 = some .decblk := by decide
theorem test_decode_pad : decode 0b00000000000000000001000000110000#32 = some (.pad 16) ∧
    decode 0b00000000000000000000000000110000#32 = some (.pad 0) := by decide
theorem test_decode_unpad : decode 0b00000000000000000000000000110001#32 = some .unpad := by decide
theorem test_decode_ecbenc : decode 0b00000000000000000000000001000000#32 = some .ecbenc := by decide
theorem test_decode_ecbdec : decode 0b00000000000000000000000001000001#32 = some .ecbdec := by decide
theorem test_decode_cbcenc : decode 0b00000000000000000000000001000010#32 = some (.cbcenc false) ∧
    decode 0b00000000000000000000000101000010#32 = some (.cbcenc true) := by decide
theorem test_decode_cbcdec : decode 0b00000000000000000000000001000011#32 = some (.cbcdec false) ∧
    decode 0b00000000000000000000000101000011#32 = some (.cbcdec true) := by decide

theorem test_decode_illegal :
    [0x0#32, 0x2#32, 0x17#32, 0x22#32, 0x32#32, 0x44#32, 0xff#32, 0x101#32, 0x131#32, 0x8041#32, 0x242#32, 0x343#32,
      0xff42#32, 0x10001#32, 0x80000016#32, 0xffffffff#32].map decode = List.replicate 16 none := by decide

theorem test_decode_names : decodeNamed 0x10001#32 = .error .reservedBits ∧ decodeNamed 0x0#32 = .error .unlistedOpcode ∧
    decodeNamed 0x101#32 = .error .argNotZero ∧ decodeNamed 0x242#32 = .error .zivArgBits := by
  refine ⟨rfl, rfl, rfl, rfl⟩

theorem test_decodeTableWord : decodeTableWord 32 0xa16 = some (.addrk 10) ∧ decodeTableWord 16 0x142 = some (.cbcenc true) ∧
    decodeTableWord 32 0x100000001 = none := by decide

/-- Assembler lines (R77), with the words program listings give them (L3). -/
theorem test_assemble : assemble "keyexp  ; expand" = some .keyexp ∧ assemble "addrk 10" = some (.addrk 10) ∧
    assemble " pad 0xff" = some (.pad 255) ∧ assemble "cbcdec ziv" = some (.cbcdec true) ∧ assemble "cbcenc" = some (.cbcenc false) ∧
    assemble "addrk 256" = none ∧ assemble "addrk" = none := by decide

/-! ### The Galois-field tables (vectors L2-T) -/

theorem test_gmul : gmul 0x57#8 0x83#8 = 0xc1#8 ∧ gmul 0x57#8 0x13#8 = 0xfe#8 ∧ xtime 0x57#8 = 0xae#8 := by decide
theorem test_mul_tables_at_57 : mul2 0x57#8 = 0xae#8 ∧ mul3 0x57#8 = 0xf9#8 ∧ mul9 0x57#8 = 0xd9#8 ∧ mul11 0x57#8 = 0x77#8 ∧
    mul13 0x57#8 = 0x9e#8 ∧ mul14 0x57#8 = 0x67#8 := by decide

/-! ### The round commands (vectors L2-R) -/

/-- L2-R1. -/
theorem test_subbytes : after (exec .subbytes (withState seq16)) (stateIs 0x637c777bf26b6fc53001672bfed7ab76) = true := by decide
/-- L2-R4. -/
theorem test_invsubbytes :
    after (exec .invsubbytes (withState seq16)) (stateIs 0x52096ad53036a538bf40a39e81f3d7fb) = true := by decide
/-- L2-R7. -/
theorem test_shiftrows : after (exec .shiftrows (withState seq16)) (stateIs 0x00050a0f04090e03080d02070c01060b) = true := by decide
/-- L2-R8. -/
theorem test_invshiftrows :
    after (exec .invshiftrows (withState seq16)) (stateIs 0x000d0a0704010e0b0805020f0c090603) = true := by decide
/-- L2-R10. -/
theorem test_mixcolumns : after (exec .mixcolumns (withState seq16)) (stateIs 0x02070005060304010a0f080d0e0b0c09) = true := by decide
/-- L2-R13. -/
theorem test_mixcolumns_db135345 : after (exec .mixcolumns (withState 0xdb135345db135345db135345db135345))
    (stateIs 0x8e4da1bc8e4da1bc8e4da1bc8e4da1bc) = true := by decide
/-- L2-R11. -/
theorem test_invmixcolumns :
    after (exec .invmixcolumns (withState seq16)) (stateIs 0x0a0f080d0e0b0c090207000506030401) = true := by decide
/-- L2-R21. -/
theorem test_addrk : after (exec (.addrk 10) (keyed seq16)) (stateIs 0x13101f7ce7914c10fb0ead8041263eca) = true := by decide
/-- L2-R23. -/
theorem test_addrk_range : after (exec (.addrk 11) (keyed seq16)) (fun t => faultIs 0x00070a43 0xb16 t && stateIs seq16 t) = true := by
  decide
/-- Does a step stop with this fault? -/
def stops (r : Result) (f : Fault) : Bool :=
  match r with
  | .next _ => false
  | .fault g => g == f
  | .refused _ => false

/-- L2-R26, L2-R27: no key is needed; an unwritten STATE is recorded (log entry 4). -/
theorem test_subbytes_unwritten : after (exec .subbytes State.reset) (fun t => t.unwrittenRead && !t.faulted) = true ∧
    after (exec .subbytes (withState 0)) (fun t => !t.unwrittenRead && !t.faulted) = true := by decide

/-- L2-R27 on the checked machine: UnwrittenRead. -/
theorem test_checked_subbytes : stops (checkedExec .subbytes State.reset) (.unwrittenRegister .state 0) = true ∧
    after (checkedExec .subbytes (withState 0)) (fun t => !t.faulted) = true := by decide

/-! ### KEYEXP (vectors L2-K) -/

/-- L2-K1. -/
theorem test_keyexp_aes128 : after (exec .keyexp (withKey 16)) (fun t =>
    (List.range 176).map (byteAt t.rk) == schedSeq && t.rkWritten == 176 && t.status == 0xa42#32 && !t.unwrittenRead) = true := by
  decide
/-- L2-K3. -/
theorem test_keyexp_aes256 : after (exec .keyexp (withKey 32)) (fun t =>
    (List.range 16).map (fun i => byteAt t.rk (224 + i)) == hexB 16 0x24fc79ccbf0979e9371ac23c6d68de36 && t.status == 0xe82#32) = true := by
  decide

/-- L2-E13 on the checked machine: UnwrittenRead of KEY[15]. -/
theorem test_checked_keyexp : stops (checkedExec .keyexp { withKey 15 with keylen := 16#8 }) (.unwrittenRegister .key 15) = true := by
  decide

/-! ### The block cipher (vectors L2-B) -/

/-- L2-B1. -/
theorem test_encblk : after (exec .encblk (keyed plainP)) (stateIs 0x69c4e0d86a7b0430d8cdb78070b4c55a) = true := by decide
/-- L2-B2. -/
theorem test_decblk : after (exec .decblk (keyed 0x69c4e0d86a7b0430d8cdb78070b4c55a)) (stateIs plainP) = true := by decide
/-- L2-B11. -/
theorem test_encblk_no_key : after (exec .encblk (withState plainP)) (fun t => faultIs 0x00060001 0x20 t && stateIs plainP t) = true := by
  decide

/-! ### Padding (vectors L2-P, L2-U) -/

/-- L2-P2. -/
theorem test_pad : after (exec (.pad 16) (withIn (withState 0) 3 0x616263 0)) (outIs 16 0x6162630d0d0d0d0d0d0d0d0d0d0d0d0d) = true := by
  decide
/-- L2-P9 and L2-E7: INVALID_BLOCK_SIZE comes before CAPACITY_EXCEEDED. -/
theorem test_pad_zero : after (exec (.pad 0) { State.reset with bufBytes := 64, inlen := 65#32 }) (faultIs 0x000a0001 0x30) = true := by
  decide
/-- L2-U3: permissive removal does not look at the other bytes. -/
theorem test_unpad_permissive : after (exec .unpad (withIn (withState 0) 16 0x41414141414141414141414141414104 0))
    (outIs 12 0x414141414141414141414141) = true := by decide
/-- L2-U14 and L2-U3, strict: `pmax` is 255, and a mismatch is PADDING_INVALID. -/
theorem test_unpad_strict : after (exec .unpad (withIn (withState 0) 32 0x1111111111111111111111111111111111111111111111111111111111111111 1))
      (outIs 15 0x111111111111111111111111111111) = true ∧
    after (exec .unpad (withIn (withState 0) 16 0x41414141414141414141414141414104 1)) (faultIs 0x00040001 0x31) = true := by decide

/-! ### Modes (vectors L2-M) -/

/-- L2-M4a. -/
theorem test_ecbenc : after (exec .ecbenc (withIn (keyed 0) 3 0x616263 0)) (outIs 16 0xb08b1f809a035064420d1d754022ab55) = true := by
  decide
/-- L2-M4a, back, strict. -/
theorem test_ecbdec : after (exec .ecbdec (withIn (keyed 0) 16 0xb08b1f809a035064420d1d754022ab55 1)) (outIs 3 0x616263) = true := by
  decide
/-- L2-M17. -/
theorem test_ecbdec_strict : after (exec .ecbdec (withIn (keyed 0) 16 0x69c4e0d86a7b0430d8cdb78070b4c55a 1))
    (fun t => faultIs 0x00040a43 0x41 t && outIs 0 0 t) = true := by decide
/-- L2-M7. -/
theorem test_cbcenc : after (exec (.cbcenc false) { withIn (keyed 0) 32 0x00112233445566778899aabbccddeeff00112233445566778899aabbccddeeff 0 with iv := blockOfBytes (hexB 16 ivA) })
    (outIs 48 0x16628846f7334843bc7321cc79661680ab128cff7d5afa25b6a07d9766c6b7c4f29b743aadb81db55392a44ae2beedc9) = true := by decide
/-- L2-M8: the all-zero IV, whatever IV holds. -/
theorem test_cbcdec_ziv : after (exec (.cbcdec true) { withIn (keyed 0) 48 0x16628846f7334843bc7321cc79661680ab128cff7d5afa25b6a07d9766c6b7c4f29b743aadb81db55392a44ae2beedc9 0 with iv := blockOfBytes (hexB 16 ivA) })
    (outIs 32 0x0f1f2f3f4f5f6f7f8f9fafbfcfdfefff00112233445566778899aabbccddeeff) = true := by decide

/-! ### The host interface (vectors L2-H, L2-E) -/

/-- The state with one host operation to come. -/
def withOp (op : HostOp) (s : State) : State := { s with hostOps := [op] }

/-- L2-H4 and L2-H6: reserved bits of CTRL read 0; KEYLEN takes 8 bits and KEY_VALID is cleared (from STATUS 0xa42). -/
theorem test_write_ctrl_keylen :
    after (step (withOp (.writeReg .ctrl 0xffffffff#32) State.reset)) (fun t => t.ctrl == 1#32) = true ∧
    after (step (withOp (.writeReg .keylen 0x1ff#32) (keyed 0))) (fun t => t.keylen == 0xff#8 && t.status == 0xa40#32) = true := by
  decide
/-- L2-E11, L2-H5: STATUS and RK are read-only. -/
theorem test_read_only : after (step (withOp (.writeReg .status 0#32) (keyed 0))) (fun t => t.status == 0xa42#32) = true ∧
    after (step (withOp (.writeByte .rk 0 0xff#8) (keyed 0))) (fun t => byteAt t.rk 0 == 0#8 && byteAt t.rk 16 == 0xd6#8) = true := by
  decide
/-- L2-E1 to L2-E3: an illegal word is recorded whole. -/
theorem test_illegal_command :
    after (step (withOp (.writeReg .cmd 0x00000000#32) State.reset)) (faultIs 0x00050001 0) = true ∧
    after (step (withOp (.writeReg .cmd 0x00010020#32) State.reset)) (faultIs 0x00050001 0x00010020) = true := by decide
/-- L2-E9: while FAULTED a command word does nothing. -/
theorem test_sticky : after (step (withOp (.writeReg .cmd 0x00000001#32) { withKey 16 with status := 0x00060001#32, errcmd := 0x41#32 }))
    (fun t => faultIs 0x00060001 0x41 t && t.rkWritten == 0) = true := by decide
/-- L2-E10: reset clears the fault. -/
theorem test_reset : after (step (withOp .reset { keyed 0 with status := 0x00060a43#32, errcmd := 0x41#32 }))
    (fun t => faultIs 0 0 t && t.keylen == 0#8 && t.rkWritten == 0) = true := by decide
/-- Program L3-P6's first lines, from reset: the bytes of IN and INLEN arrive, and `pad 16` answers OUTLEN 16. -/
theorem test_program_pad : after (runOps State.reset (programOps [.wrb .inBuf (hexB 3 0x616263), .wr .inlen 3#32, .cmd (.pad 16), .rd .outlen]))
    (fun t => outIs 16 0x6162630d0d0d0d0d0d0d0d0d0d0d0d0d t && t.reply == some 16#32) = true := by decide
/-- R266: an index outside the array has no step; R42: an unwritten byte of IN below INLEN stops a command. -/
theorem test_stops :
    (match step (withOp (.readByte .iv 16) State.reset) with | .refused r => r == .hostIndexOutOfRange .iv 16 | _ => false) = true ∧
    (match exec .unpad { State.reset with inlen := 2#32 } with | .fault r => r == .unwrittenRead 0 | _ => false) = true := by decide
/-- withFetchWord: the very next step runs the word. -/
theorem test_withFetchWord : after (step (State.reset.withFetchWord 32 0x00000130)) (outIs 1 0x01) = true := by decide
/-- Power-on (R250). -/
theorem test_memory_wf_at_reset : Memory.wf State.reset.bufBytes State.reset.inBuf = true ∧
    Memory.wf State.reset.bufBytes State.reset.outBuf = true := by decide

/-! ### Witnesses: for each statement with hypotheses, concrete inputs that meet all of them together -/

/-- The operation at the head of the host's list is a write of `w` to CMD. -/
def withCmd (w : Word) (s : State) : State := withOp (.writeReg .cmd w) s

/-- A faulted state: NO_KEY_SCHEDULE recorded for an `ecbdec` word (vector L2-E4). -/
def faultedState : State := { State.reset with status := 0x00060001#32, errcmd := 0x41#32 }

theorem witness_DecodeInvertsEncode :
    (Instr.addrk 255).wf = true ∧ (Instr.addrk 0).wf = true ∧ (Instr.pad 255).wf = true ∧ Instr.keyexp.wf = true := by decide

theorem witness_EncodeInvertsDecode : decode 0x0000ff16#32 = some (.addrk 255) ∧ decode 0x00000143#32 = some (.cbcdec true) := by decide

theorem witness_StepRunsTheDecodedCommand :
    (withCmd 0xff30#32 State.reset).hostOps = .writeReg .cmd 0xff30#32 :: [] ∧ (withCmd 0xff30#32 State.reset).faulted = false ∧
      decode 0xff30#32 = some (.pad 255) := by decide

theorem witness_IdleCoreHoldsItsState : (keyed 0).hostOps = [] := by decide

/-- Order 0. -/
theorem witness_FaultPriorityOrder_0 :
    (withCmd 0x20#32 faultedState).hostOps = .writeReg .cmd 0x20#32 :: [] ∧ (withCmd 0x20#32 faultedState).faulted = true := by decide

/-- Order 1. -/
theorem witness_FaultPriorityOrder_1 :
    (withCmd 0x120#32 State.reset).hostOps = .writeReg .cmd 0x120#32 :: [] ∧ (withCmd 0x120#32 State.reset).faulted = false ∧
      decode 0x120#32 = none := by decide

/-- Order 2: ENCBLK after reset. -/
theorem witness_FaultPriorityOrder_2 : Reports (conditions .encblk (withCmd 0x20#32 State.reset)) .noKeySchedule :=
  .inl ⟨by decide, rfl⟩

/-- Order 3: KEYEXP with KEYLEN 17, ADDRK with r = NR + 1, PAD 0. -/
theorem witness_FaultPriorityOrder_3 :
    Reports (conditions .keyexp { withCmd 0x1#32 State.reset with keylen := 17#8 }) .invalidKeyLength ∧
    Reports (conditions (.addrk 11) (withCmd 0xb16#32 (keyed 0))) .roundIndexRange ∧
    Reports (conditions (.pad 0) (withCmd 0x30#32 State.reset)) .invalidBlockSize :=
  ⟨.inr ⟨by decide, .inl ⟨by decide, rfl⟩⟩,
   .inr ⟨by decide, .inr ⟨by decide, .inl ⟨⟨11, rfl, by decide⟩, rfl⟩⟩⟩,
   .inr ⟨by decide, .inr ⟨by decide, .inr ⟨(by rintro ⟨r, h, _⟩; cases h), .inl ⟨rfl, rfl⟩⟩⟩⟩⟩

/-- UNPAD with INLEN = 65 over BUF_BYTES = 64; UNPAD with INLEN = 0; ECBDEC with INLEN = 17. -/
theorem witness_FaultPriorityOrder_4_5_6 :
    Reports (conditions .unpad { withCmd 0x31#32 (withState 0) with inlen := 65#32 }) .capacityExceeded ∧
    Reports (conditions .unpad (withCmd 0x31#32 (withState 0))) .emptyInput ∧
    Reports (conditions .ecbdec { withCmd 0x41#32 (keyed 0) with inlen := 17#32 }) .partialFinalBlock := by
  have hr : ∀ (i : Instr) (s : State), (i = .unpad ∨ i = .ecbdec) → ¬∃ r, i = .addrk r ∧ s.nr < r := by
    rintro i s (rfl | rfl) ⟨r, h, _⟩ <;> cases h
  exact ⟨.inr ⟨by decide, .inr ⟨by decide, .inr ⟨hr _ _ (.inl rfl), .inr ⟨by decide, .inl ⟨by decide, rfl⟩⟩⟩⟩⟩,
    .inr ⟨by decide, .inr ⟨by decide, .inr ⟨hr _ _ (.inl rfl), .inr ⟨by decide, .inr ⟨by decide, .inl ⟨by decide, rfl⟩⟩⟩⟩⟩⟩,
    .inr ⟨by decide, .inr ⟨by decide, .inr ⟨hr _ _ (.inr rfl), .inr ⟨by decide, .inr ⟨by decide, .inr ⟨by decide,
      .inl ⟨by decide, rfl⟩⟩⟩⟩⟩⟩⟩⟩

/-- Order 7: ECBENC with INLEN = BUF_BYTES = 64, whose result would take 80. -/
theorem witness_FaultPriorityOrder_7 :
    Reports (conditions .ecbenc { withCmd 0x40#32 (keyed 0) with inlen := 64#32 }) .capacityExceeded :=
  .inr ⟨by decide, .inr ⟨by decide, .inr ⟨(by rintro ⟨r, h, _⟩; cases h), .inr ⟨by decide, .inr ⟨by decide, .inr ⟨by decide,
    .inr ⟨by decide, .inl ⟨⟨16, rfl, by decide⟩, rfl⟩⟩⟩⟩⟩⟩⟩⟩

/-- UNPAD on an input none of whose conditions of orders 2 to 7 holds. -/
theorem noneHolds_unpad {s : State} (h1 : ¬s.bufBytes < inLen s) (h2 : inLen s ≠ 0) : NoneHolds (conditions .unpad s) :=
  ⟨by simp [needsSchedule], by simp, (by rintro ⟨r, h, _⟩; cases h), by simp, by simpa [readsIn] using h1, by simpa [unpads] using h2, by simp [decryptsBuffer],
    (by rintro ⟨bs, h, _⟩; cases h), trivial⟩

/-- UnwrittenRead: IN[0] is written, IN[1] is not, INLEN = 2 = BUF_BYTES' last free place below 64. -/
theorem witness_FaultPriorityOrder_unwritten :
    let s := { withCmd 0x31#32 (withIn (withState 0) 1 0x41 0) with inlen := 2#32 }
    s.faulted = false ∧ decode 0x31#32 = some .unpad ∧ NoneHolds (conditions .unpad s) ∧ readsIn .unpad = true ∧ 1 < inLen s ∧
      s.written .inBuf 1 = false ∧ ∀ b, b < 1 → s.written .inBuf b = true :=
  ⟨by decide, by decide, noneHolds_unpad (by decide) (by decide), rfl, by decide, by decide, by decide⟩

/-- Order 8: strict UNPAD of the single byte 05 (vector L2-U9). -/
theorem witness_FaultPriorityOrder_8 :
    let s := withCmd 0x31#32 (withIn (withState 0) 1 0x05 1)
    s.faulted = false ∧ NoneHolds (conditions .unpad s) ∧ InWritten s ∧ PaddingFails .unpad s :=
  ⟨by decide, noneHolds_unpad (by decide) (by decide), by unfold InWritten; decide, by decide, by decide, by unfold StrictOk; decide⟩

/-- Completion: strict UNPAD of the single byte 01 (vector L2-U10). -/
theorem witness_FaultPriorityOrder_completes :
    let s := withCmd 0x31#32 (withIn (withState 0) 1 0x01 1)
    s.faulted = false ∧ NoneHolds (conditions .unpad s) ∧ (readsIn .unpad = true → InWritten s) ∧ ¬PaddingFails .unpad s :=
  ⟨by decide, noneHolds_unpad (by decide) (by decide), fun _ => by unfold InWritten; decide, fun h => h.2.2 (by unfold StrictOk; decide)⟩

theorem witness_FaultEntryWritesOnlyTheRecord :
    (withCmd 0x120#32 (keyed 0)).hostOps = .writeReg .cmd 0x120#32 :: [] ∧ (withCmd 0x120#32 (keyed 0)).faulted = false ∧
      ∃ t, step (withCmd 0x120#32 (keyed 0)) = .next t ∧ t.faulted = true := ⟨by decide, by decide, _, rfl, by decide⟩

theorem witness_FaultIsStickyUntilReset :
    let s := { faultedState with hostOps := [.writeReg .cmd 0x1#32, .writeReg .keylen 16#32, .writeByte .key 0 0#8] }
    s.faulted = true ∧ HostOp.reset ∉ s.hostOps ∧ ∃ t, Sys2Proof.core.run 3 s = .next t := ⟨by decide, by decide, _, rfl⟩

theorem witness_ResetGivesTheResetTable : (withOp .reset faultedState).hostOps = .reset :: [] := by decide

/-- The last byte of KEY. -/
theorem witness_PowerOnGivesTheResetTable : ByteArr.key ≠ .iv ∧ 31 < State.reset.size .key := by decide

/-- One witness for each clause: KEYLEN (truncated), CTRL (all bits), INLEN (the largest value), a read-only register. -/
theorem witness_HostRegisterWritesFollowAccessRights :
    (withOp (.writeReg .keylen 0x1ff#32) (keyed 0)).hostOps = .writeReg .keylen 0x1ff#32 :: [] ∧
    (withOp (.writeReg .ctrl 0xffffffff#32) (keyed 0)).hostOps = .writeReg .ctrl 0xffffffff#32 :: [] ∧
    (withOp (.writeReg .inlen 0xffffffff#32) (keyed 0)).hostOps = .writeReg .inlen 0xffffffff#32 :: [] ∧
    (withOp (.writeReg .outlen 1#32) (keyed 0)).hostOps = .writeReg .outlen 1#32 :: [] := by decide

/-- The last index of each array. -/
theorem witness_HostByteWriteIsReadBack :
    (withOp (.writeByte .key 31 0xff#8) (keyed 0)).hostOps = .writeByte .key 31 0xff#8 :: [] ∧ 31 < (keyed 0).size .key ∧
    15 < (keyed 0).size .iv ∧ 15 < (keyed 0).size .state ∧ 63 < (keyed 0).size .inBuf ∧
    239 < (keyed 0).size .rk ∧ 63 < (keyed 0).size .outBuf := by decide

theorem witness_HostReadsChangeNothing :
    (withOp (.readReg .cmd) (keyed 0)).hostOps = .readReg .cmd :: [] ∧
    (withOp (.readByte .rk 239) (keyed 0)).hostOps = .readByte .rk 239 :: [] ∧ 239 < (withOp (.readByte .rk 239) (keyed 0)).size .rk := by
  decide

theorem witness_OutOfRangeAccessIsRefused :
    (withOp (.writeByte .key 32 0#8) (keyed 0)).size .key ≤ 32 ∧
    (withOp (.writeByte .key 32 0#8) (keyed 0)).hostOps = .writeByte .key 32 0#8 :: [] ∧
    (withOp (.readByte .outBuf 64) (keyed 0)).size .outBuf ≤ 64 ∧
    (withOp (.readByte .outBuf 64) (keyed 0)).hostOps = .readByte .outBuf 64 :: [] := by decide

/-- The top bit, a nonzero byte, and two bytes with the same image. -/
theorem witness_SboxIsTheAffineInverse : 7 < 8 ∧ (0x53#8 : Byte) ≠ 0#8 ∧ sbox 0x53#8 = sbox 0x53#8 := by decide

/-- The largest bit index, and a nonzero byte with its inverse. -/
theorem witness_GmulIsTheFieldProduct : 7 < 8 ∧ (0x53#8 : Byte) ≠ 0#8 ∧ gmul 0x53#8 0xca#8 = 1#8 := by decide

theorem witness_RconDoublesInTheField : 8 < 9 := by decide

theorem witness_SubBytesCommandsSubstituteEachByte : (withState seq16).faulted = false := by decide
theorem witness_ShiftRowsCommandsPermuteBytes : (withState seq16).faulted = false := by decide
theorem witness_MixColumnsCommandsMultiplyColumns : (withState seq16).faulted = false := by decide

/-- The last round-key block, r = NR. -/
theorem witness_AddrkAddsTheRoundKey : (keyed 0).faulted = false ∧ (keyed 0).keyValid = true ∧ 10 ≤ (keyed 0).nr := by decide
theorem witness_AddrkTwiceRestoresState : (keyed 0).faulted = false ∧ (keyed 0).keyValid = true ∧ 0 ≤ (keyed 0).nr := by decide

theorem witness_KeyexpLoadsTheSchedule :
    ((withKey 16).faulted = false ∧ (withKey 16).keylen.toNat = 16) ∧ ((withKey 24).faulted = false ∧ (withKey 24).keylen.toNat = 24) ∧
    ((withKey 32).faulted = false ∧ (withKey 32).keylen.toNat = 32) := by decide

/-- Another key array that differs at index 16, just above KEYLEN = 16. -/
theorem witness_KeyexpIgnoresKeyBytesAboveKeylen :
    (∀ i, i < (withKey 16).keylen.toNat → byteAt ((withKey 16).key.setIfInBounds 16 0xff#8) i = byteAt (withKey 16).key i ∧
      flagAt ((withKey 16).keyWritten.setIfInBounds 16 true) i = flagAt (withKey 16).keyWritten i) ∧
    ∃ t, exec .keyexp (withKey 16) = .next t := ⟨by decide, _, rfl⟩

/-- What KEYEXP left under a 16-byte key is current, whatever the host is about to do. -/
theorem scheduleCurrent_putSchedule (s : State) (op : HostOp) (hk : s.keylen.toNat = 16)
    (hl : (keyExpansion (s.keyOperand 16) 4 10).length = 176) :
    ScheduleCurrent (withOp op (s.putSchedule Config.aes128 (keyExpansion (s.keyOperand 16) 4 10))) := by
  generalize hL : keyExpansion (s.keyOperand 16) 4 10 = L at hl
  have hread : ∀ (t : State) a i, (withOp op t).readByte a i = t.readByte a i := by
    intro t a i; cases a <;> rfl
  have hop : (withOp op (s.putSchedule Config.aes128 L)).keyOperand 16 = s.keyOperand 16 := by
    simp only [State.keyOperand, hread, State.readByte_putSchedule_other s .key _ Config.aes128 L (by decide)]
  have hnk : ∀ t : State, (withOp op t).nk = t.nk := fun _ => rfl
  have hnr : ∀ t : State, (withOp op t).nr = t.nr := fun _ => rfl
  intro _
  refine ⟨Config.aes128, ?_, (hnk _).trans <| State.nk_putSchedule (cfg := Config.aes128) L s (by decide),
    (hnr _).trans <| State.nr_putSchedule (cfg := Config.aes128) L s (by decide), fun i hi => ?_⟩
  · simp only [withOp, State.putSchedule_keylen, hk]; rfl
  · have hi' : i < 176 := hi
    refine ⟨by simp only [withOp, State.written, State.putSchedule_rkWritten, hl, hi', decide_true], ?_⟩
    rw [hread, State.readByte_putSchedule_rk s Config.aes128 L (by omega) (by omega)]
    show L.getD i 0#8 = (keyExpansion ((withOp op (s.putSchedule Config.aes128 L)).keyOperand 16) 4 10).getD i 0#8
    rw [hop, hL]

/-- KEYEXP's result with key 00 .. 0f, the host about to write KEY[0]. -/
theorem witness_KeyValidMeansCurrentSchedule :
    let s := withOp (.writeByte .key 0 0#8)
      ((withKey 16).putSchedule Config.aes128 (keyExpansion ((withKey 16).keyOperand 16) 4 10))
    s.keyValid = true ∧ ScheduleCurrent s ∧ ∃ t, step s = .next t :=
  ⟨State.keyValid_putSchedule Config.aes128 (keyExpansion ((withKey 16).keyOperand 16) 4 10) (withKey 16), scheduleCurrent_putSchedule (withKey 16) _ (by decide) (by decide), _, rfl⟩

theorem witness_EncblkIsTheCipher : (keyed plainP).faulted = false ∧ (keyed plainP).keyValid = true := by decide
theorem witness_DecblkIsTheInverseCipher : (keyed plainP).faulted = false ∧ (keyed plainP).keyValid = true := by decide
theorem witness_DecblkUndoesEncblk : (keyed plainP).faulted = false ∧ (keyed plainP).keyValid = true := by decide
theorem witness_RoundCommandsComposeToEncblk : (keyed plainP).faulted = false ∧ (keyed plainP).keyValid = true := by decide
theorem witness_InverseRoundCommandsComposeToDecblk : (keyed plainP).faulted = false ∧ (keyed plainP).keyValid = true := by decide

/-- The smallest and the largest block size, the result filling BUF_BYTES exactly: `pad 1` on 15 bytes of 16, `pad 255` on
none of 255. -/
theorem witness_PadAppendsPkcs7 :
    (let s := { withIn (withState 0) 15 0x41 0 with bufBytes := 16 }
     s.faulted = false ∧ LegalCapacity s ∧ InWritten s ∧ 1 * (inLen s / 1 + 1) ≤ s.bufBytes) ∧
    (let s := { withState 0 with bufBytes := 255 }
     s.faulted = false ∧ LegalCapacity s ∧ InWritten s ∧ 255 * (inLen s / 255 + 1) ≤ s.bufBytes) := by
  unfold LegalCapacity InWritten; decide

/-- One input for each clause of the removal: permissive (`p` above the length), strict and well padded, strict and not. -/
theorem witness_UnpadRemovesPadding :
    (let s := withIn (withState 0) 4 0x616263ff 0
     s.faulted = false ∧ LegalCapacity s ∧ InWritten s ∧ inLen s ≤ s.bufBytes ∧ 0 < inLen s ∧ s.strictPad = false) ∧
    (let s := withIn (withState 0) 1 0x01 1
     s.faulted = false ∧ LegalCapacity s ∧ InWritten s ∧ inLen s ≤ s.bufBytes ∧ 0 < inLen s ∧ s.strictPad = true ∧
        StrictOk 255 (inBytes s)) ∧
    (let s := withIn (withState 0) 1 0x02 1
     s.faulted = false ∧ LegalCapacity s ∧ InWritten s ∧ inLen s ≤ s.bufBytes ∧ 0 < inLen s ∧ s.strictPad = true ∧
        ¬StrictOk 255 (inBytes s)) := by
  unfold LegalCapacity InWritten StrictOk; decide

theorem witness_PaddingRoundTrip : (1 ≤ 1 ∧ 1 ≤ 255 ∧ 1 ≤ 1) ∧ (1 ≤ 255 ∧ 255 ≤ 255 ∧ 255 ≤ 255) := by decide

/-- Sixteen 10: a whole number of blocks, accepted with an empty result (vector L2-U7). -/
theorem witness_StrictRemovalAcceptsExactlyPaddedData :
    (List.replicate 16 (0x10#8 : Byte)).length % 16 = 0 ∧ unpadStrict (List.replicate 16 0x10#8) 16 = some [] := by decide

/-- 48 bytes, the padded result filling BUF_BYTES = 64 exactly; and no byte at all. -/
theorem witness_EcbencEncryptsEachBlock : EncryptReady (withIn (keyed 0) 48 0x41 0) ∧ EncryptReady (keyed 0) := by
  unfold EncryptReady LegalCapacity InWritten; decide
theorem witness_CbcencChainsTheCiphertext : EncryptReady (withIn (keyed 0) 48 0x41 0) := by
  unfold EncryptReady LegalCapacity InWritten; decide

/-- 64 bytes = BUF_BYTES. -/
theorem witness_EcbdecDecryptsEachBlock : DecryptReady (withIn (keyed 0) 64 0x41 0) ∧ DecryptReady (withIn (keyed 0) 16 0x41 1) := by
  unfold DecryptReady LegalCapacity InWritten; decide
theorem witness_CbcdecChainsTheCiphertext : DecryptReady (withIn (keyed 0) 64 0x41 0) ∧ DecryptReady (withIn (keyed 0) 16 0x41 1) := by
  unfold DecryptReady LegalCapacity InWritten; decide

/-- The first and the last block. -/
theorem witness_EqualBlocksUnderEcbAndCbc :
    EncryptReady (withIn (keyed 0) 48 0x41 0) ∧ 0 ≤ inLen (withIn (keyed 0) 48 0x41 0) / 16 ∧ 3 ≤ inLen (withIn (keyed 0) 48 0x41 0) / 16 := by
  unfold EncryptReady LegalCapacity InWritten; decide

/-- OUT itself is a buffer that holds what OUT holds. -/
theorem out_read {t : State} {i : Nat} (h : t.written .outBuf i = true) : t.outBuf.read i = some (t.readByte .outBuf i) := by
  rw [State.readByte_written h]
  simp only [State.written, Option.isSome_iff_exists] at h
  obtain ⟨b, hb⟩ := h
  simp [State.held, hb]

theorem witness_EcbRoundTrip :
    EncryptReady (keyed 0) ∧ ∃ (t : State) (m : Memory), exec .ecbenc (keyed 0) = .next t ∧
      ∀ i, i < t.outlen.toNat → m.read i = some (t.readByte .outBuf i) := by
  refine ⟨by unfold EncryptReady LegalCapacity InWritten; decide, _, _, rfl, fun i hi => out_read ?_⟩
  rw [State.written_putResult_out, decide_eq_true_eq]
  simp only [State.putResult_outlen, length_joinBlocks] at hi ⊢
  exact hi

theorem witness_CbcRoundTrip :
    EncryptReady (keyed 0) ∧ ∃ (t : State) (m : Memory), exec (.cbcenc true) (keyed 0) = .next t ∧
      ∀ i, i < t.outlen.toNat → m.read i = some (t.readByte .outBuf i) := by
  refine ⟨by unfold EncryptReady LegalCapacity InWritten; decide, _, _, rfl, fun i hi => out_read ?_⟩
  rw [State.written_putResult_out, decide_eq_true_eq]
  simp only [State.putResult_outlen, length_joinBlocks] at hi ⊢
  exact hi

/-- The last of two blocks changes. -/
theorem witness_CbcErrorPropagation :
    ∃ hi : 1 < [zeroBlock, zeroBlock].length, [zeroBlock, zeroBlock][1] ≠ blockBuild fun _ => 1#8 := by decide

theorem witness_ZivIgnoresTheIvRegister :
    (∃ t, exec (.cbcenc true) (keyed 0) = .next t) ∧ ∃ t, exec (.cbcdec true) (withIn (keyed 0) 16 0 0) = .next t :=
  ⟨⟨_, rfl⟩, ⟨_, rfl⟩⟩

/-- A command on STATE, KEYEXP, a command on IN that completes, one that faults. -/
theorem witness_CommandsWriteOnlyTheirRegisters :
    (∃ t, exec .subbytes (withState 0) = .next t ∧ t.faulted = false) ∧ (∃ t, exec .keyexp (withKey 16) = .next t ∧ t.faulted = false) ∧
    (∃ t, exec (.pad 16) (withState 0) = .next t ∧ t.faulted = false) ∧ (∃ t, exec .encblk State.reset = .next t ∧ t.faulted = true) :=
  ⟨⟨_, rfl, rfl⟩, ⟨_, rfl, by decide⟩, ⟨_, rfl, rfl⟩, ⟨_, rfl, by decide⟩⟩

/-- IN differs at address INLEN = 3. -/
theorem witness_InBytesAboveInlenAreIgnored :
    let s := withIn (withState 0) 3 0x616263 0
    (∀ a, a < inLen s → (s.inBuf.write 3 0xff#8).read a = s.inBuf.read a) ∧ ∃ t, exec (.pad 16) s = .next t := ⟨by decide, _, rfl⟩

/-- A state with KEY_VALID = 1 whose round-key block 10 was never written. -/
def shortSchedule : State := { keyed 0 with rkWritten := 175 }

/-- With a schedule that is written and no byte of STATE: what a mode command and PAD read is written. -/
def noState : State := { keyed 0 with stateWritten := Vector.replicate 16 false }

/-- STATE unwritten; KEY[15] unwritten; RK[175] unwritten, for ADDRK 10 and for ECBENC. -/
theorem witness_UnwrittenReadIsRecorded :
    (∃ t, exec .subbytes State.reset = .next t ∧ t.faulted = false ∧ UnwrittenRegister .subbytes State.reset) ∧
    (∃ t, exec .keyexp { withKey 15 with keylen := 16#8 } = .next t ∧ t.faulted = false ∧
      UnwrittenRegister .keyexp { withKey 15 with keylen := 16#8 }) ∧
    (∃ t, exec (.addrk 10) shortSchedule = .next t ∧ t.faulted = false ∧ UnwrittenRegister (.addrk 10) shortSchedule) ∧
    (∃ t, exec .ecbenc shortSchedule = .next t ∧ t.faulted = false ∧ UnwrittenRegister .ecbenc shortSchedule) :=
  ⟨⟨_, rfl, rfl, .inl ⟨rfl, 15, by decide⟩⟩, ⟨_, rfl, by decide, .inr (.inl ⟨rfl, 15, by decide⟩)⟩,
    ⟨_, rfl, rfl, .inr (.inr (.inl ⟨10, rfl, 15, by decide⟩))⟩,
    ⟨_, rfl, rfl, .inr (.inr (.inr ⟨rfl, (by intro r h; cases h), 175, by decide⟩))⟩⟩

theorem written_ecbenc_noState : ¬UnwrittenRegister .ecbenc noState := by
  rintro (⟨h, _⟩ | ⟨h, _⟩ | ⟨r, h, _⟩ | ⟨_, _, j, hj, hw⟩)
  · cases h
  · cases h
  · cases h
  · exact absurd hw (by revert j; decide)

/-- The other clause: STATE unwritten, a mode command that does not read it, and PAD, which reads none of the three. -/
theorem witness_UnwrittenReadIsRecorded_kept :
    (∃ t, exec .ecbenc noState = .next t ∧ t.faulted = false ∧ ¬UnwrittenRegister .ecbenc noState) ∧
    (∃ t, exec (.pad 16) State.reset = .next t ∧ t.faulted = false ∧ ¬UnwrittenRegister (.pad 16) State.reset) := by
  refine ⟨⟨_, rfl, rfl, written_ecbenc_noState⟩, _, rfl, rfl, ?_⟩
  rintro (⟨h, _⟩ | ⟨h, _⟩ | ⟨r, h, _⟩ | ⟨h, _⟩) <;> cases h

/-- A live state with a schedule whose next operation faults. -/
theorem witness_FieldsStayLegal : FieldsLegal (withCmd 0#32 (keyed 0)) ∧ ∃ t, step (withCmd 0#32 (keyed 0)) = .next t :=
  ⟨by unfold FieldsLegal; decide, _, rfl⟩

/-- IN and OUT list bytes up to the last address, BUF_BYTES = 64, and the host writes IN[63]. -/
theorem witness_BuffersStayCanonical :
    let s := withOp (.writeByte .inBuf 63 1#8)
      { withIn (keyed 0) 63 0x41 0 with outBuf := Memory.ofBytesFrom 0 (hexB 64 0x41), outlen := 64#32 }
    BuffersCanonical s ∧ ∃ t, step s = .next t := by
  refine ⟨⟨by unfold LegalCapacity; decide, by decide, by decide, by decide, fun i hi => ?_⟩, _, rfl⟩
  by_contra h
  have : (Memory.ofBytesFrom 0 (hexB 64 0x41)).read i = none := by
    rw [Memory.read_ofBytesFrom]
    have h64 : 64 ≤ i := by
      have : ¬i < 64 := h
      omega
    simp [hexB, h64]
  have h2 : ((Memory.ofBytesFrom 0 (hexB 64 0x41)).read i).isSome = true := hi
  rw [this] at h2
  cases h2

/-- SUBBYTES on a live state: none of the conditions of orders 2 to 7 holds. -/
theorem noneHolds_subbytes (s : State) : NoneHolds (conditions .subbytes s) :=
  ⟨by simp [needsSchedule], by simp, (by rintro ⟨r, h, _⟩; cases h), by simp, by simp [readsIn], by simp [unpads],
    by simp [decryptsBuffer], (by rintro ⟨bs, h, _⟩; cases h), trivial⟩

/-- No CMD write; FAULTED; an illegal word; a condition of order 2. -/
theorem witness_CheckedStepRaisesUnwrittenRead_step :
    (∀ w rest, (withOp .reset faultedState).hostOps ≠ .writeReg .cmd w :: rest) ∧
    ((withCmd 0x20#32 faultedState).hostOps = .writeReg .cmd 0x20#32 :: [] ∧ (withCmd 0x20#32 faultedState).faulted = true) ∧
    ((withCmd 0x120#32 State.reset).hostOps = .writeReg .cmd 0x120#32 :: [] ∧ decode 0x120#32 = none) ∧
    ((withCmd 0x20#32 State.reset).faulted = false ∧ decode 0x20#32 = some .encblk ∧
      Reports (conditions .encblk (withCmd 0x20#32 State.reset)) .noKeySchedule) :=
  ⟨(by intro w rest h; cases h), by decide, by decide, by decide, by decide, .inl ⟨by decide, rfl⟩⟩

/-- IN[1] unwritten below INLEN = 2; STATE unwritten; STATE written. -/
theorem witness_CheckedStepRaisesUnwrittenRead_fault :
    (let s := { withCmd 0x31#32 (withIn (withState 0) 1 0x41 0) with inlen := 2#32 }
     s.faulted = false ∧ decode 0x31#32 = some .unpad ∧ NoneHolds (conditions .unpad s) ∧ readsIn .unpad = true ∧ ¬InWritten s) ∧
    (let s := withCmd 0x10#32 State.reset
     s.faulted = false ∧ decode 0x10#32 = some .subbytes ∧ NoneHolds (conditions .subbytes s) ∧
       (readsIn .subbytes = true → InWritten s) ∧ UnwrittenRegister .subbytes s) ∧
    (let s := withCmd 0x10#32 (withState 0)
     s.faulted = false ∧ NoneHolds (conditions .subbytes s) ∧ (readsIn .subbytes = true → InWritten s) ∧
       ¬UnwrittenRegister .subbytes s) := by
  refine ⟨⟨by decide, by decide, noneHolds_unpad (by decide) (by decide), rfl, by unfold InWritten; decide⟩,
    ⟨by decide, by decide, noneHolds_subbytes _, (by intro h; cases h), .inl ⟨rfl, 15, by decide⟩⟩,
    ⟨by decide, noneHolds_subbytes _, (by intro h; cases h), ?_⟩⟩
  rintro (⟨_, j, hj, hw⟩ | ⟨h, _⟩ | ⟨r, h, _⟩ | ⟨h, _⟩)
  · exact absurd hw (by revert j; decide)
  all_goals cases h

end Sys2Proof.Tests
end

/-! ### The step, one host operation at a time -/

namespace Sys2Proof.Machine

open Sys2Proof.Claims

/-- A step performs the operation at the head of the host's list (R20). -/
theorem stepWith_cons {run : Instr → State → Result} {s : State} {op : HostOp} {rest : List HostOp}
    (h : s.hostOps = op :: rest) : stepWith run s = hostStep run op (s.takeOp rest) := by
  simp only [stepWith, h]

theorem step_cons {s : State} {op : HostOp} {rest : List HostOp} (h : s.hostOps = op :: rest) :
    step s = hostStep exec op (s.takeOp rest) := stepWith_cons h

/-- A write of CMD issues the word (R37). -/
theorem stepWith_cmd {run : Instr → State → Result} {s : State} {w : Word} {rest : List HostOp}
    (h : s.hostOps = .writeReg .cmd w :: rest) : stepWith run s = issueCommand run w (taken rest s) := stepWith_cons h

theorem issueCommand_faulted {run : Instr → State → Result} {w : Word} {s : State} (h : s.faulted = true) :
    issueCommand run w s = .next s := command_faulted h _

theorem issueCommand_illegal {run : Instr → State → Result} {w : Word} {s : State} (h : s.faulted = false)
    (hd : decode w = none) : issueCommand run w s = fail .illegalCommand w s := by
  rw [issueCommand, command_live h, hd]

theorem issueCommand_decoded {run : Instr → State → Result} {w : Word} {s : State} {i : Instr} (h : s.faulted = false)
    (hd : decode w = some i) : issueCommand run w s = run i s := by
  rw [issueCommand, command_live h, hd]

/-- How a command runs matters only to a write of CMD. -/
theorem stepWith_congr_run {s : State} (run run' : Instr → State → Result)
    (h : ∀ w rest, s.hostOps ≠ .writeReg .cmd w :: rest) : stepWith run s = stepWith run' s := by
  cases hops : s.hostOps with
  | nil => simp only [stepWith, hops]
  | cons op rest =>
    rw [stepWith_cons hops, stepWith_cons hops]
    cases op with
    | writeReg r v =>
      cases r
      case cmd => exact absurd hops (h v rest)
      all_goals rfl
    | _ => rfl

/-! ### The sticky fault (R232, R33) -/

/-- The part of the state that nothing but RESET changes while FAULTED = 1: the fault record, and what only commands
write. -/
structure Frozen (s t : State) : Prop where
  faulted : t.faulted = s.faulted
  err : t.err = s.err
  errcmd : t.errcmd = s.errcmd
  rk : t.rk = s.rk
  rkWritten : t.rkWritten = s.rkWritten
  nk : t.nk = s.nk
  nr : t.nr = s.nr
  outBuf : t.outBuf = s.outBuf
  outlen : t.outlen = s.outlen

theorem Frozen.refl (s : State) : Frozen s s := ⟨rfl, rfl, rfl, rfl, rfl, rfl, rfl, rfl, rfl⟩

theorem Frozen.trans {s t u : State} (h : Frozen s t) (h' : Frozen t u) : Frozen s u :=
  ⟨h'.faulted.trans h.faulted, h'.err.trans h.err, h'.errcmd.trans h.errcmd, h'.rk.trans h.rk,
    h'.rkWritten.trans h.rkWritten, h'.nk.trans h.nk, h'.nr.trans h.nr, h'.outBuf.trans h.outBuf,
    h'.outlen.trans h.outlen⟩

theorem Frozen.keyTouched {s t : State} (h : Frozen s t) : Frozen s t.keyTouched :=
  h.trans ⟨by simp, by simp, rfl, rfl, rfl, by simp, by simp, rfl, rfl⟩

theorem frozen_writeByte (s : State) (a : ByteArr) (i : Nat) (b : Byte) : Frozen s (s.writeByte a i b) := by
  cases a with
  | key => exact Frozen.keyTouched ⟨rfl, rfl, rfl, rfl, rfl, rfl, rfl, rfl, rfl⟩
  | _ => exact ⟨rfl, rfl, rfl, rfl, rfl, rfl, rfl, rfl, rfl⟩

theorem State.hostOps_writeByte (s : State) (a : ByteArr) (i : Nat) (b : Byte) :
    (s.writeByte a i b).hostOps = s.hostOps := by cases a <;> rfl

/-- While FAULTED = 1 every host operation but RESET leaves the frozen part, and takes nothing from the host's list. -/
theorem hostStep_frozen {op : HostOp} {s t : State} (hf : s.faulted = true) (hop : op ≠ .reset)
    (h : hostStep exec op s = .next t) : Frozen s t ∧ t.hostOps = s.hostOps := by
  cases op with
  | reset => exact absurd rfl hop
  | writeReg r v =>
    cases r <;> simp only [hostStep, writeReg] at h
    case cmd => rw [issueCommand_faulted hf] at h; cases h; exact ⟨.refl s, rfl⟩
    case keylen => cases h; exact ⟨Frozen.keyTouched ⟨rfl, rfl, rfl, rfl, rfl, rfl, rfl, rfl, rfl⟩, rfl⟩
    all_goals cases h; exact ⟨⟨rfl, rfl, rfl, rfl, rfl, rfl, rfl, rfl, rfl⟩, rfl⟩
  | writeByte a i b =>
    simp only [hostStep] at h
    split at h
    · cases h; exact ⟨frozen_writeByte s a i b, s.hostOps_writeByte a i b⟩
    · cases h
  | readReg r => cases h; exact ⟨⟨rfl, rfl, rfl, rfl, rfl, rfl, rfl, rfl, rfl⟩, rfl⟩
  | readByte a i =>
    simp only [hostStep] at h
    split at h
    · cases h; exact ⟨⟨rfl, rfl, rfl, rfl, rfl, rfl, rfl, rfl, rfl⟩, rfl⟩
    · cases h

/-- One step from a faulted state with no RESET to come: the frozen part stays, and still no RESET is to come. -/
theorem step_frozen {s t : State} (hf : s.faulted = true) (hr : HostOp.reset ∉ s.hostOps) (h : step s = .next t) :
    Frozen s t ∧ HostOp.reset ∉ t.hostOps := by
  rcases step_next h with ⟨_, rfl⟩ | ⟨op, rest, hops, h⟩
  · exact ⟨.refl t, hr⟩
  · rw [hops, List.mem_cons, not_or] at hr
    obtain ⟨hfrozen, hlist⟩ := hostStep_frozen (s := s.takeOp rest) hf (Ne.symm hr.1) h
    have htake : Frozen s (s.takeOp rest) := ⟨rfl, rfl, rfl, rfl, rfl, rfl, rfl, rfl, rfl⟩
    exact ⟨htake.trans hfrozen, by rw [hlist]; exact hr.2⟩

/-- A run that answers a next state took a first step that did. -/
theorem core_run_succ (M : Host.Core) {n : Nat} {s t : M.State} (h : M.run (n + 1) s = .next t) :
    ∃ s', M.step s = .next s' ∧ M.run n s' = .next t := by
  rw [Host.Core.run] at h
  split at h
  · next s' hs => exact ⟨s', hs, h⟩
  · cases h
  · cases h

theorem run_frozen (n : Nat) {s t : State} (hf : s.faulted = true) (hr : HostOp.reset ∉ s.hostOps)
    (h : Sys2Proof.core.run n s = .next t) : Frozen s t := by
  induction n generalizing s with
  | zero => cases h; exact .refl _
  | succ n ih =>
    obtain ⟨s', hs, hrun⟩ := core_run_succ Sys2Proof.core h
    obtain ⟨hfrozen, hr'⟩ := step_frozen hf hr hs
    exact hfrozen.trans (ih (hfrozen.faulted.trans hf) hr' hrun)

/-- Settles O10, by induction on the number of steps: each step keeps the frozen part. -/
theorem faultIsStickyUntilReset : Obligations.FaultIsStickyUntilReset := by
  intro n s t hf hr h
  have hz := run_frozen n hf hr h
  exact ⟨hz.faulted.trans hf, hz.err, hz.errcmd, hz.rk, hz.rkWritten, hz.nk, hz.nr, hz.outBuf, hz.outlen⟩

/-! ### The legal values of STATUS, CTRL and ERRCMD (R29 to R34) -/

/-- A field write leaves the bits outside the field. -/
theorem setField_and_of_disjoint {lo width : Nat} (v : Nat) {m : Word} (w : Word) (h : fieldMask lo width &&& m = 0#32) :
    setField lo width v w &&& m = w &&& m := by
  apply BitVec.eq_of_getLsbD_eq
  intro i hi
  have hm : ((fieldMask lo width).getLsbD i && m.getLsbD i) = false := by
    rw [← BitVec.getLsbD_and, h, BitVec.getLsbD_zero]
  rw [getLsbD_fieldMask] at hm
  rw [BitVec.getLsbD_and, BitVec.getLsbD_and, getLsbD_setField]
  split
  · next hin => simp only [hin, and_self, decide_true, Bool.true_and] at hm; simp only [hm, Bool.and_false]
  · rfl

@[simp] theorem statusOnFault_reserved (e : ErrCode) (st : Word) :
    statusOnFault e st &&& statusReserved = st &&& statusReserved := by
  rw [statusOnFault, setField_and_of_disjoint _ _ (by decide), setField_and_of_disjoint _ _ (by decide)]

@[simp] theorem statusOnKeyexp_reserved (cfg : KeyConfig) (st : Word) :
    statusOnKeyexp cfg st &&& statusReserved = st &&& statusReserved := by
  rw [statusOnKeyexp, setField_and_of_disjoint _ _ (by decide), setField_and_of_disjoint _ _ (by decide),
    setField_and_of_disjoint _ _ (by decide)]

@[simp] theorem statusOnKeyWrite_reserved (st : Word) :
    statusOnKeyWrite st &&& statusReserved = st &&& statusReserved := by
  rw [statusOnKeyWrite, setField_and_of_disjoint _ _ (by decide)]

theorem ctrlOnWrite_reserved (v : Word) : ctrlOnWrite v &&& 0xfffffffe#32 = 0#32 := by
  rw [ctrlOnWrite, BitVec.and_assoc, show fieldMask 0 1 &&& 0xfffffffe#32 = 0#32 by decide, BitVec.and_zero]

theorem ErrCode.code_le (e : ErrCode) : e.code ≤ 10 := by cases e <;> decide

/-- Code 2 is INVALID_BLOCK_LENGTH's alone (R220). -/
theorem ErrCode.code_ne_two {e : ErrCode} (h : e ≠ .invalidBlockLength) : e.code ≠ 2 := by
  cases e <;> first | decide | exact absurd rfl h

theorem fieldsLegal_congr {s t : State} (hs : t.status = s.status) (hc : t.ctrl = s.ctrl) (he : t.errcmd = s.errcmd)
    (h : FieldsLegal s) : FieldsLegal t := by
  simpa only [FieldsLegal, State.nk, State.nr, State.keyValid, State.err, State.faulted, hs, hc, he] using h

theorem fieldsLegal_raise {e : ErrCode} (he : e ≠ .invalidBlockLength) (w : Word) {s : State} (h : FieldsLegal s) :
    FieldsLegal (s.raise e w) := by
  obtain ⟨hres, hctrl, hcfg, hkv, _, _, _, _⟩ := h
  refine ⟨by simpa using hres, hctrl, by simpa using hcfg, by simpa using hkv, ?_, ?_, ?_, by simp⟩
  · simpa using e.code_le
  · simpa using ErrCode.code_ne_two he
  · simpa using e.code_ne_zero

theorem fieldsLegal_putSchedule {n : Nat} {cfg : KeyConfig} (hc : keyConfig n = some cfg) (l : List Byte) {s : State}
    (h : FieldsLegal s) : FieldsLegal (s.putSchedule cfg l) := by
  obtain ⟨hres, hctrl, _, _, hle, hne, hiff, hcmd⟩ := h
  obtain ⟨hn, _, hnk, hnr⟩ := keyConfig_some hc
  have hnk' := State.nk_putSchedule (cfg := cfg) l s (by omega)
  have hnr' := State.nr_putSchedule (cfg := cfg) l s (by omega)
  refine ⟨by simpa using hres, by simpa using hctrl, ?_, ?_, by simpa using hle, by simpa using hne, by simpa using hiff,
    by simpa using hcmd⟩
  · rw [hnk', hnr']; omega
  · rw [hnr']; omega

theorem fieldsLegal_keyTouched {s : State} (h : FieldsLegal s) : FieldsLegal s.keyTouched := by
  obtain ⟨hres, hctrl, hcfg, _, hle, hne, hiff, hcmd⟩ := h
  exact ⟨by simpa using hres, hctrl, by simpa using hcfg, by simp, by simpa using hle, by simpa using hne,
    by simpa using hiff, by simpa using hcmd⟩

theorem fieldsLegal_reset : FieldsLegal State.reset := by unfold FieldsLegal; decide

theorem fieldsLegal_answer {i : Instr} {s t : State} (h : FieldsLegal s) (ha : Answer i s t) : FieldsLegal t := by
  cases ha with
  | ignored => exact h
  | fault e he => exact fieldsLegal_raise he _ h
  | schedule u cfg _ hc => exact fieldsLegal_putSchedule hc _ (fieldsLegal_congr (s := s) rfl rfl rfl h)
  | state => exact fieldsLegal_congr (s := s) rfl rfl rfl h
  | out => exact fieldsLegal_congr (s := s) rfl rfl rfl h

theorem fieldsLegal_writeByte {s : State} (a : ByteArr) (i : Nat) (b : Byte) (h : FieldsLegal s) :
    FieldsLegal (s.writeByte a i b) := by
  cases a with
  | key => exact fieldsLegal_keyTouched (fieldsLegal_congr (s := s) rfl rfl rfl h)
  | _ => exact fieldsLegal_congr (s := s) rfl rfl rfl h

/-- Settles O57: every answer of a command and every host operation keeps the fields legal. -/
theorem fieldsStayLegal : Obligations.FieldsStayLegal :=
  step_invariant FieldsLegal
    (htake := fun s _ => fieldsLegal_congr (s := s) rfl rfl rfl)
    (hreply := fun s _ => fieldsLegal_congr (s := s) rfl rfl rfl)
    (hexec := fun _ _ _ => fieldsLegal_answer)
    (hillegal := fun _ w _ => fieldsLegal_raise (by decide) w)
    (hreset := fun _ _ => fieldsLegal_congr (s := State.reset) rfl rfl rfl fieldsLegal_reset)
    (hkeylen := fun s _ h => fieldsLegal_keyTouched (fieldsLegal_congr (s := s) rfl rfl rfl h))
    (hctrl := fun _ v ⟨hres, _, hrest⟩ => ⟨hres, ctrlOnWrite_reserved v, hrest⟩)
    (hinlen := fun s _ => fieldsLegal_congr (s := s) rfl rfl rfl)
    (hbyte := fun _ a i b _ => fieldsLegal_writeByte a i b)

/-! ### A valid schedule is the current key's (R32) -/

/-- The operand of KEYEXP depends on what a reader of KEY sees alone. -/
theorem State.keyOperand_congr {s t : State} {n : Nat} (h : ∀ i, i < n → t.readByte .key i = s.readByte .key i) :
    t.keyOperand n = s.keyOperand n :=
  List.map_congr_left fun i hi => h i (List.mem_range.mp hi)

/-- A stale schedule makes no claim. -/
theorem scheduleCurrent_of_invalid {s : State} (h : s.keyValid = false) : ScheduleCurrent s := by
  intro hv; rw [h] at hv; cases hv

/-- What the invariant looks at: KEY_VALID, NK, NR, KEYLEN, and KEY and RK as a reader sees them. -/
theorem scheduleCurrent_congr {s t : State} (hv : t.keyValid = s.keyValid) (hnk : t.nk = s.nk) (hnr : t.nr = s.nr)
    (hl : t.keylen = s.keylen) (hw : t.rkWritten = s.rkWritten)
    (hr : ∀ i, t.readByte .rk i = s.readByte .rk i) (hk : ∀ i, t.readByte .key i = s.readByte .key i)
    (h : ScheduleCurrent s) : ScheduleCurrent t := by
  intro hvt
  obtain ⟨cfg, hc, hsnk, hsnr, hbytes⟩ := h (hv ▸ hvt)
  refine ⟨cfg, hl ▸ hc, hnk.trans hsnk, hnr.trans hsnr, fun i hi => ?_⟩
  rw [State.keyOperand_congr fun j _ => hk j, hr i, State.written, hw]
  exact hbytes i hi

theorem scheduleCurrent_raise (e : ErrCode) (w : Word) {s : State} (h : ScheduleCurrent s) :
    ScheduleCurrent (s.raise e w) :=
  scheduleCurrent_congr (s := s) (by simp) (by simp) (by simp) rfl rfl (by simp) (by simp) h

/-- KEYEXP establishes the invariant, whatever stood before. -/
theorem scheduleCurrent_putSchedule {s : State} {cfg : KeyConfig} (hc : keyConfig s.keylen.toNat = some cfg) :
    ScheduleCurrent (s.putSchedule cfg (keyExpansion (s.keyOperand cfg.keyBytes) cfg.nk cfg.nr)) := by
  intro _
  obtain ⟨hn, _, hnk, hnr⟩ := keyConfig_some hc
  refine ⟨cfg, by simpa using hc, State.nk_putSchedule _ _ (by omega), State.nr_putSchedule _ _ (by omega), fun i hi => ?_⟩
  have hlen := length_keyExpansion (s.keyOperand cfg.keyBytes) cfg.nk cfg.nr (by omega)
  constructor
  · simpa [State.written, hlen] using hi
  · rw [State.readByte_putSchedule_rk _ _ _ (by omega) (by omega),
      State.keyOperand_congr fun j _ => State.readByte_putSchedule_other s .key j cfg _ (by decide)]

theorem scheduleCurrent_answer {i : Instr} {s t : State} (h : ScheduleCurrent s) (ha : Answer i s t) :
    ScheduleCurrent t := by
  cases ha with
  | ignored => exact h
  | fault e => exact scheduleCurrent_raise e _ h
  | schedule u cfg _ hc => exact scheduleCurrent_putSchedule (s := { s with unwrittenRead := u }) hc
  | state => exact scheduleCurrent_congr (s := s) rfl rfl rfl rfl rfl (fun _ => rfl) (fun _ => rfl) h
  | out => exact scheduleCurrent_congr (s := s) rfl rfl rfl rfl rfl (fun _ => rfl) (fun _ => rfl) h

theorem scheduleCurrent_writeByte {s : State} (a : ByteArr) (i : Nat) (b : Byte) (h : ScheduleCurrent s) :
    ScheduleCurrent (s.writeByte a i b) := by
  cases a with
  | key => exact scheduleCurrent_of_invalid (State.keyValid_keyTouched _)
  | _ => exact scheduleCurrent_congr (s := s) rfl rfl rfl rfl rfl (fun _ => rfl) (fun _ => rfl) h

/-- Settles O33: KEYEXP establishes the invariant, a write to KEY or KEYLEN and RESET clear KEY_VALID, and nothing else
touches what it looks at. -/
theorem keyValidMeansCurrentSchedule : Obligations.KeyValidMeansCurrentSchedule :=
  step_invariant ScheduleCurrent
    (htake := fun s _ => scheduleCurrent_congr (s := s) rfl rfl rfl rfl rfl (fun _ => rfl) (fun _ => rfl))
    (hreply := fun s _ => scheduleCurrent_congr (s := s) rfl rfl rfl rfl rfl (fun _ => rfl) (fun _ => rfl))
    (hexec := fun _ _ _ => scheduleCurrent_answer)
    (hillegal := fun _ w _ => scheduleCurrent_raise .illegalCommand w)
    (hreset := fun _ _ => scheduleCurrent_of_invalid (by simp [State.keyValid]))
    (hkeylen := fun _ _ _ => scheduleCurrent_of_invalid (State.keyValid_keyTouched _))
    (hctrl := fun s _ => scheduleCurrent_congr (s := s) rfl rfl rfl rfl rfl (fun _ => rfl) (fun _ => rfl))
    (hinlen := fun s _ => scheduleCurrent_congr (s := s) rfl rfl rfl rfl rfl (fun _ => rfl) (fun _ => rfl))
    (hbyte := fun _ a i b _ => scheduleCurrent_writeByte a i b)

end Sys2Proof.Machine

/-! ### Which registers a command writes (R21) -/

namespace Sys2Proof.Machine

open Sys2Proof.Claims

/-- No command writes KEY, KEYLEN, IV, CTRL, INLEN or IN, and none touches the capacity or the host's side. -/
theorem exec_keeps_inputs {i : Instr} {s t : State} (h : exec i s = .next t) :
    t.key = s.key ∧ t.keyWritten = s.keyWritten ∧ t.keylen = s.keylen ∧ t.iv = s.iv ∧ t.ctrl = s.ctrl ∧
      t.inlen = s.inlen ∧ t.inBuf = s.inBuf ∧ t.bufBytes = s.bufBytes ∧ t.hostOps = s.hostOps ∧ t.reply = s.reply := by
  cases exec_answer h with
  | schedule => simp
  | _ => exact ⟨rfl, rfl, rfl, rfl, rfl, rfl, rfl, rfl, rfl, rfl⟩

/-- KEYEXP alone writes RK and the fields NK, NR and KEY_VALID. -/
theorem exec_keeps_schedule {i : Instr} {s t : State} (hi : i ≠ .keyexp) (h : exec i s = .next t) :
    t.rk = s.rk ∧ t.rkWritten = s.rkWritten ∧ t.nk = s.nk ∧ t.nr = s.nr ∧ t.keyValid = s.keyValid := by
  cases exec_answer h with
  | fault => simp
  | schedule _ _ hk => exact absurd hk hi
  | _ => exact ⟨rfl, rfl, rfl, rfl, rfl⟩

/-- A command that does not enter a fault keeps the record, and all of STATUS unless it is KEYEXP. -/
theorem exec_keeps_record {i : Instr} {s t : State} (hf : t.faulted = s.faulted) (h : exec i s = .next t) :
    t.errcmd = s.errcmd ∧ t.err = s.err ∧ (i ≠ .keyexp → t.status = s.status) := by
  cases exec_answer h with
  | fault _ _ hlive => rw [State.faulted_raise, hlive] at hf; cases hf
  | schedule _ _ hk => exact ⟨by simp, by simp; rfl, fun hi => absurd hk hi⟩
  | _ => exact ⟨rfl, rfl, fun _ => rfl⟩

section Shapes
variable {w : Word} {f : List Block → List Block} {s t : State}

theorem encryptBuffer_keeps_state (h : encryptBuffer w f s = .next t) :
    t.state = s.state ∧ t.stateWritten = s.stateWritten := by
  rcases encryptBuffer_cases h with ⟨_, rfl⟩ | ⟨_, _, rfl, _⟩ | ⟨_, _, _, _, _, rfl⟩ <;> exact ⟨rfl, rfl⟩

theorem decryptBuffer_keeps_state (h : decryptBuffer w f s = .next t) :
    t.state = s.state ∧ t.stateWritten = s.stateWritten := by
  rcases decryptBuffer_cases h with ⟨_, rfl⟩ | ⟨_, _, rfl, _⟩ | ⟨_, _, _, _, _, _, _, _, rfl⟩ <;> exact ⟨rfl, rfl⟩

theorem roundCommand_keeps_out {g : Block → Block} (h : roundCommand g s = .next t) :
    t.outBuf = s.outBuf ∧ t.outlen = s.outlen := by
  rcases roundCommand_cases h with ⟨_, rfl⟩ | ⟨_, rfl⟩ <;> exact ⟨rfl, rfl⟩

theorem blockCommand_keeps_out {g : Block → Block} (h : blockCommand w g s = .next t) :
    t.outBuf = s.outBuf ∧ t.outlen = s.outlen := by
  rcases blockCommand_cases h with ⟨_, rfl⟩ | ⟨_, _, rfl⟩ | ⟨_, _, rfl⟩ <;> exact ⟨rfl, rfl⟩

end Shapes

/-- Only the commands on STATE write STATE. -/
theorem exec_keeps_state {i : Instr} {s t : State} (hi : writesState i = false) (h : exec i s = .next t) :
    t.state = s.state ∧ t.stateWritten = s.stateWritten := by
  cases i
  case keyexp => rcases execKeyexp_cases h with ⟨_, rfl⟩ | ⟨_, _, rfl⟩ | ⟨_, _, _, rfl⟩ <;> simp
  case pad =>
    rcases execPad_cases h with ⟨_, rfl⟩ | ⟨_, _, rfl, _⟩ | ⟨_, _, _, _, _, rfl⟩ <;> exact ⟨rfl, rfl⟩
  case unpad =>
    rcases execUnpad_cases h with ⟨_, rfl⟩ | ⟨_, _, rfl, _⟩ | ⟨_, _, _, _, _, _, rfl⟩ <;> exact ⟨rfl, rfl⟩
  case ecbenc | cbcenc => exact encryptBuffer_keeps_state h
  case ecbdec | cbcdec => exact decryptBuffer_keeps_state h
  all_goals cases hi

/-- Only the commands on IN write OUT. -/
theorem exec_keeps_out {i : Instr} {s t : State} (hi : readsIn i = false) (h : exec i s = .next t) :
    t.outBuf = s.outBuf ∧ t.outlen = s.outlen := by
  cases i
  case keyexp => rcases execKeyexp_cases h with ⟨_, rfl⟩ | ⟨_, _, rfl⟩ | ⟨_, _, _, rfl⟩ <;> simp
  case addrk =>
    rcases execAddrk_cases h with ⟨_, rfl⟩ | ⟨_, _, rfl⟩ | ⟨_, _, _, rfl⟩ | ⟨_, _, _, rfl⟩ <;> exact ⟨rfl, rfl⟩
  case encblk | decblk => exact blockCommand_keeps_out h
  case subbytes | invsubbytes | shiftrows | invshiftrows | mixcolumns | invmixcolumns => exact roundCommand_keeps_out h
  all_goals cases hi

/-- Settles O54, clause by clause. -/
theorem commandsWriteOnlyTheirRegisters : Obligations.CommandsWriteOnlyTheirRegisters := by
  intro i s t h
  refine ⟨exec_keeps_inputs h, (exec_keeps_state · h), (exec_keeps_schedule · h), (exec_keeps_out · h), fun hf => ?_,
    fun hf => ?_⟩
  · obtain ⟨hcmd, herr, _⟩ := exec_keeps_record hf h
    exact ⟨hcmd, herr⟩
  · obtain ⟨_, _, hstatus⟩ := exec_keeps_record hf h
    exact hstatus

/-! ### What a command reads of KEY, IV and IN

A command never writes these three. So running it on a state whose KEY, IV and IN stand differently, but alike where the
command reads them, is running it and then exchanging the three. -/

/-- `s` with KEY, its written marks, IV and IN as they stand in `src`. -/
def withInputs (src s : State) : State :=
  { s with key := src.key, keyWritten := src.keyWritten, iv := src.iv, inBuf := src.inBuf }

/-- A next state changed by `g`; a stop stays. -/
def mapNext (g : State → State) : Result → Result
  | .next t => .next (g t)
  | .fault f => .fault f
  | .refused r => .refused r

theorem mapNext_ite (g : State → State) (c : Prop) [Decidable c] (a b : Result) :
    mapNext g (if c then a else b) = if c then mapNext g a else mapNext g b := apply_ite (mapNext g) c a b

section WithInputs
variable (src s : State)

theorem command_withInputs (r : Result) :
    command (withInputs src s) (mapNext (withInputs src) r) = mapNext (withInputs src) (command s r) :=
  (mapNext_ite (withInputs src) (s.faulted = true) (.next s) r).symm

theorem roundCommand_withInputs (f : Block → Block) :
    roundCommand f (withInputs src s) = mapNext (withInputs src) (roundCommand f s) :=
  command_withInputs src s (.next ((s.noteRead .state 0 16).putState (f s.stateOperand)))

theorem execAddrk_withInputs (r : Nat) :
    execAddrk r (withInputs src s) = mapNext (withInputs src) (execAddrk r s) := by
  rw [execAddrk, execAddrk, ← command_withInputs, mapNext_ite, mapNext_ite]
  rfl

theorem blockCommand_withInputs (w : Word) (f : Block → Block) :
    blockCommand w f (withInputs src s) = mapNext (withInputs src) (blockCommand w f s) := by
  rw [blockCommand, blockCommand, ← command_withInputs, mapNext_ite]
  rfl

theorem finishUnpad_withInputs (w : Word) (pmax : Nat) (q : List Byte) (noted : State) :
    finishUnpad w pmax q (withInputs src s) (withInputs src noted) =
      mapNext (withInputs src) (finishUnpad w pmax q s noted) := by
  simp only [finishUnpad, show (withInputs src s).unpad pmax q = s.unpad pmax q from rfl]
  cases s.unpad pmax q <;> rfl

/-- KEYEXP reads KEY below KEYLEN. -/
theorem execKeyexp_withInputs
    (hop : (withInputs src s).keyOperand s.keylen.toNat = s.keyOperand s.keylen.toNat)
    (hw : (withInputs src s).allWritten .key 0 s.keylen.toNat = s.allWritten .key 0 s.keylen.toNat) :
    execKeyexp (withInputs src s) = mapNext (withInputs src) (execKeyexp s) := by
  rw [execKeyexp, execKeyexp, ← command_withInputs, show (withInputs src s).keylen = s.keylen from rfl]
  cases hc : keyConfig s.keylen.toNat with
  | none => rfl
  | some cfg =>
    obtain ⟨_, hbytes, _⟩ := keyConfig_some hc
    simp only [hbytes, hop, State.noteRead, hw]
    rfl

section In
variable {src s} (hin : (withInputs src s).inOperand = s.inOperand)
include hin

theorem execPad_withInputs (bs : Nat) : execPad bs (withInputs src s) = mapNext (withInputs src) (execPad bs s) := by
  rw [execPad, execPad, ← command_withInputs, hin, mapNext_ite, mapNext_ite, mapNext_ite]
  cases s.inOperand <;> rfl

theorem execUnpad_withInputs : execUnpad (withInputs src s) = mapNext (withInputs src) (execUnpad s) := by
  rw [execUnpad, execUnpad, ← command_withInputs, hin, mapNext_ite, mapNext_ite]
  cases s.inOperand with
  | error a => rfl
  | ok d => simp only [← finishUnpad_withInputs]; rfl

theorem encryptBuffer_withInputs (w : Word) (f : List Block → List Block) :
    encryptBuffer w f (withInputs src s) = mapNext (withInputs src) (encryptBuffer w f s) := by
  rw [encryptBuffer, encryptBuffer, ← command_withInputs, hin, mapNext_ite, mapNext_ite, mapNext_ite]
  cases s.inOperand <;> rfl

theorem decryptBuffer_withInputs (w : Word) (f : List Block → List Block) :
    decryptBuffer w f (withInputs src s) = mapNext (withInputs src) (decryptBuffer w f s) := by
  rw [decryptBuffer, decryptBuffer, ← command_withInputs, hin, mapNext_ite, mapNext_ite, mapNext_ite, mapNext_ite]
  cases s.inOperand with
  | error a => rfl
  | ok c => simp only [← finishUnpad_withInputs]; rfl

end In
end WithInputs

/-- The range of IN that a command reads stops at INLEN. -/
theorem inOperand_withInputs {src s : State} (h : ∀ a, a < inLen s → src.inBuf.read a = s.inBuf.read a) :
    (withInputs src s).inOperand = s.inOperand :=
  Memory.readRange_congr s.inBuf src.inBuf 0 s.inlen.toNat fun j _ hj => h j (by rwa [Nat.zero_add] at hj)

/-- Two keys that agree below `n`, marks included, are one operand and are written alike. -/
theorem key_withInputs {src s : State} {n : Nat}
    (h : ∀ i, i < n → byteAt src.key i = byteAt s.key i ∧ flagAt src.keyWritten i = flagAt s.keyWritten i) :
    (withInputs src s).keyOperand n = s.keyOperand n ∧
      (withInputs src s).allWritten .key 0 n = s.allWritten .key 0 n := by
  have hwritten : ∀ i, i < n → (withInputs src s).written .key i = s.written .key i := fun i hi => (h i hi).2
  constructor
  · exact State.keyOperand_congr fun i hi => State.readByte_congr .key i (h i hi).1 (hwritten i hi) rfl
  · rw [Bool.eq_iff_iff, State.allWritten_eq_true, State.allWritten_eq_true]
    exact forall₂_congr fun i hi => by rw [hwritten _ (by omega)]

/-- KEYEXP alone reads KEY, below KEYLEN; the commands on IN read it below INLEN; the CBC commands alone read IV, as ZIV
selects it. -/
theorem exec_withInputs {src s : State} (i : Instr)
    (hkey : i = .keyexp → ∀ j, j < s.keylen.toNat →
      byteAt src.key j = byteAt s.key j ∧ flagAt src.keyWritten j = flagAt s.keyWritten j)
    (hin : readsIn i = true → ∀ a, a < inLen s → src.inBuf.read a = s.inBuf.read a)
    (hiv : ∀ z, i = .cbcenc z ∨ i = .cbcdec z → (withInputs src s).ivOperand z = s.ivOperand z) :
    exec i (withInputs src s) = mapNext (withInputs src) (exec i s) := by
  cases i with
  | keyexp =>
    obtain ⟨hop, hw⟩ := key_withInputs (hkey rfl)
    exact execKeyexp_withInputs src s hop hw
  | addrk r => exact execAddrk_withInputs src s r
  | encblk => exact blockCommand_withInputs src s _ s.encryptBlock
  | decblk => exact blockCommand_withInputs src s _ s.decryptBlock
  | pad bs => exact execPad_withInputs (inOperand_withInputs (hin rfl)) bs
  | unpad => exact execUnpad_withInputs (inOperand_withInputs (hin rfl))
  | ecbenc => exact encryptBuffer_withInputs (inOperand_withInputs (hin rfl)) _ (List.map s.encryptBlock)
  | ecbdec => exact decryptBuffer_withInputs (inOperand_withInputs (hin rfl)) _ (List.map s.decryptBlock)
  | cbcenc z =>
    simp only [exec, execCbcenc, hiv z (.inl rfl)]
    exact encryptBuffer_withInputs (inOperand_withInputs (hin rfl)) _ (cbcEncrypt s.encryptBlock (s.ivOperand z))
  | cbcdec z =>
    simp only [exec, execCbcdec, hiv z (.inr rfl)]
    exact decryptBuffer_withInputs (inOperand_withInputs (hin rfl)) _ (cbcDecrypt s.decryptBlock (s.ivOperand z))
  | _ => exact roundCommand_withInputs src s _

/-- The same, from the next state that the command answers on `s`. -/
theorem exec_withInputs_next {s t : State} {i : Instr} (h : exec i s = .next t) (src : State)
    (hkey : i = .keyexp → ∀ j, j < s.keylen.toNat →
      byteAt src.key j = byteAt s.key j ∧ flagAt src.keyWritten j = flagAt s.keyWritten j)
    (hin : readsIn i = true → ∀ a, a < inLen s → src.inBuf.read a = s.inBuf.read a)
    (hiv : ∀ z, i = .cbcenc z ∨ i = .cbcdec z → (withInputs src s).ivOperand z = s.ivOperand z) :
    exec i (withInputs src s) = .next (withInputs src t) := by
  rw [exec_withInputs i hkey hin hiv, h, mapNext]

/-- Settles O55: IN stands differently at INLEN and above only. -/
theorem inBytesAboveInlenAreIgnored : Obligations.InBytesAboveInlenAreIgnored := by
  intro i s t m hm h
  obtain ⟨hkey, hkw, _, hiv, _⟩ := exec_keeps_inputs h
  have hexec := exec_withInputs_next h { s with inBuf := m } (fun _ _ _ => ⟨rfl, rfl⟩) (fun _ => hm)
    (fun _ _ => rfl)
  have ht : withInputs { s with inBuf := m } t = { t with inBuf := m } := by simp only [withInputs, hkey, hkw, hiv]
  rwa [ht] at hexec

theorem State.ivOperand_ziv (s : State) : s.ivOperand true = zeroBlock := rfl

/-- With ZIV = 1 the chaining starts from the zero block, and IV is read nowhere else. -/
theorem exec_ziv_withIv {i : Instr} (hi : i = .cbcenc true ∨ i = .cbcdec true) (iv' : Block) {s t : State}
    (h : exec i s = .next t) : exec i { s with iv := iv' } = .next { t with iv := iv' } := by
  obtain ⟨hkey, hkw, _, _, _, _, hin, _⟩ := exec_keeps_inputs h
  have hiv : ∀ z, i = .cbcenc z ∨ i = .cbcdec z → (withInputs { s with iv := iv' } s).ivOperand z = s.ivOperand z := by
    rcases hi with rfl | rfl <;> rintro z (hz | hz) <;> cases hz <;> rw [State.ivOperand_ziv, State.ivOperand_ziv]
  have hexec := exec_withInputs_next h { s with iv := iv' } (fun _ _ _ => ⟨rfl, rfl⟩) (fun _ _ _ => rfl) hiv
  have ht : withInputs { s with iv := iv' } t = { t with iv := iv' } := by simp only [withInputs, hkey, hkw, hin]
  rwa [ht] at hexec

/-- Settles O53. -/
theorem zivIgnoresTheIvRegister : Obligations.ZivIgnoresTheIvRegister :=
  fun _ _ iv' => ⟨exec_ziv_withIv (.inl rfl) iv', exec_ziv_withIv (.inr rfl) iv'⟩

/-- Settles O32: KEY stands differently at KEYLEN and above only. -/
theorem keyexpIgnoresKeyBytesAboveKeylen : Obligations.KeyexpIgnoresKeyBytesAboveKeylen := by
  intro s key' kw' t hagree h
  obtain ⟨_, _, _, hiv, _, _, hin, _⟩ := exec_keeps_inputs h
  have hexec := exec_withInputs_next h { s with key := key', keyWritten := kw' } (fun _ => hagree)
    (fun _ _ _ => rfl) (fun _ _ => rfl)
  have ht : withInputs { s with key := key', keyWritten := kw' } t = { t with key := key', keyWritten := kw' } := by
    simp only [withInputs, hiv, hin]
  rwa [ht] at hexec

end Sys2Proof.Machine

/-! ### The checks of a command, in the order of R233 -/

namespace Sys2Proof.Machine

open Sys2Proof.Claims

/-- The answer `r` of the command `i` checks the conditions `cs` in order: the first that holds raises its error, and with
none of them `P` is known of the answer. -/
def Guarded (i : Instr) (s : State) (P : Result → Prop) (cs : List (Prop × ErrCode)) (r : Result) : Prop :=
  (∀ e, Reports cs e → r = fail e (encode i) s) ∧ (NoneHolds cs → P r)

section Guarded
variable {i : Instr} {s : State} {P : Result → Prop} {c : Prop} {e : ErrCode} {cs : List (Prop × ErrCode)} {r : Result}

theorem Guarded.nil (h : P r) : Guarded i s P [] r := ⟨fun _ hr => hr.elim, fun _ => h⟩

/-- The first condition holds and its error is raised. -/
theorem Guarded.raised (hc : c) (hr : r = fail e (encode i) s) : Guarded i s P ((c, e) :: cs) r := by
  refine ⟨fun e' h => ?_, fun h => absurd hc h.1⟩
  rcases h with ⟨_, rfl⟩ | ⟨hn, _⟩
  · exact hr
  · exact absurd hc hn

/-- The first condition does not hold. -/
theorem Guarded.passed (hc : ¬c) (h : Guarded i s P cs r) : Guarded i s P ((c, e) :: cs) r := by
  refine ⟨fun e' h' => ?_, fun h' => h.2 h'.2⟩
  rcases h' with ⟨hc', _⟩ | ⟨_, hr⟩
  · exact absurd hc' hc
  · exact h.1 e' hr

/-- The model tests the first condition. -/
theorem Guarded.tested {b : Prop} [Decidable b] (hbc : b ↔ c) (h : ¬b → Guarded i s P cs r) :
    Guarded i s P ((c, e) :: cs) (if b then fail e (encode i) s else r) := by
  by_cases hb : b
  · rw [if_pos hb]; exact .raised (hbc.mp hb) rfl
  · rw [if_neg hb]; exact .passed (mt hbc.mpr hb) (h hb)

end Guarded

/-- What a live command can answer once no condition of orders 2 to 7 holds: the stop at an unwritten byte of IN, the
padding error, or completion. -/
inductive PastChecks (i : Instr) (s : State) : Result → Prop
  | unwritten (a : Nat) (hi : readsIn i = true) (ha : s.inOperand = .error a) : PastChecks i s (.fault (.unwrittenRead a))
  | badPadding (hi : readsIn i = true → InWritten s) : PastChecks i s (fail .paddingInvalid (encode i) s)
  | completed (t : State) (hi : readsIn i = true → InWritten s) (ht : t.faulted = false) : PastChecks i s (.next t)

theorem inWritten_of_operand {s : State} {d : List Byte} (h : s.inOperand = .ok d) : InWritten s := by
  obtain ⟨_, hd⟩ := (State.inOperand_ok_iff s d).mp h
  exact fun j hj => (hd j hj).1

section PastChecks
variable {i : Instr} {s : State} (hf : s.faulted = false)
include hf

theorem pastChecks_putState (hi : readsIn i = false) (u : Bool) (b : Block) :
    PastChecks i s (.next (State.putState b { s with unwrittenRead := u })) :=
  .completed _ (fun h => by rw [hi] at h; cases h) hf

theorem pastChecks_putResult {d : List Byte} (hd : s.inOperand = .ok d) (u : Bool) (l : List Byte) :
    PastChecks i s (.next (State.putResult l { s with unwrittenRead := u })) :=
  .completed _ (fun _ => inWritten_of_operand hd) hf

theorem pastChecks_finishUnpad {d : List Byte} (hd : s.inOperand = .ok d) (pmax : Nat) (q : List Byte) (u : Bool) :
    PastChecks i s (finishUnpad (encode i) pmax q s { s with unwrittenRead := u }) := by
  unfold finishUnpad
  cases s.unpad pmax q with
  | none => exact .badPadding fun _ => inWritten_of_operand hd
  | some l => exact pastChecks_putResult hf hd u l

end PastChecks

/-! Each shape of command against the conditions that concern it. -/

section Shapes
variable {i : Instr} {s : State} (hf : s.faulted = false)
include hf

theorem roundCommand_guarded (hr : readsIn i = false) (f : Block → Block) :
    Guarded i s (PastChecks i s) [] (roundCommand f s) := by
  rw [roundCommand_live f hf]
  exact .nil (pastChecks_putState hf hr _ _)

theorem blockCommand_guarded (hr : readsIn i = false) (f : Block → Block) :
    Guarded i s (PastChecks i s) [(s.keyValid = false, .noKeySchedule)] (blockCommand (encode i) f s) := by
  rw [blockCommand, command_live hf]
  exact .tested (by simp) fun _ => .nil (pastChecks_putState hf hr _ _)

theorem execAddrk_guarded (r : Nat) :
    Guarded (.addrk r) s (PastChecks (.addrk r) s)
      [(s.keyValid = false, .noKeySchedule), (s.nr < r, .roundIndexRange)] (execAddrk r s) := by
  rw [execAddrk, command_live hf]
  exact .tested (by simp) fun _ => .tested Iff.rfl fun _ => .nil (pastChecks_putState hf rfl _ _)

theorem execKeyexp_guarded :
    Guarded .keyexp s (PastChecks .keyexp s)
      [(¬(s.keylen.toNat = 16 ∨ s.keylen.toNat = 24 ∨ s.keylen.toNat = 32), .invalidKeyLength)] (execKeyexp s) := by
  rw [execKeyexp, command_live hf]
  cases hc : keyConfig s.keylen.toNat with
  | none => exact .raised ((keyConfig_none_iff _).mp hc) rfl
  | some cfg =>
    obtain ⟨hlen, _⟩ := keyConfig_some hc
    refine .passed (not_not_intro hlen) (.nil (.completed _ nofun ?_))
    rw [State.faulted_putSchedule, State.faulted_noteRead, hf]

theorem execPad_guarded (bs : Nat) :
    Guarded (.pad bs) s (PastChecks (.pad bs) s)
      [(bs = 0, .invalidBlockSize), (s.bufBytes < inLen s, .capacityExceeded),
        (s.bufBytes < bs * (inLen s / bs + 1), .capacityExceeded)] (execPad bs s) := by
  rw [execPad, command_live hf]
  refine .tested Iff.rfl fun hbs => .tested Iff.rfl fun _ => .tested ?_ fun _ => .nil ?_
  · rw [padCount_multiple _ (Nat.pos_of_ne_zero hbs), inLen]
  · cases hd : s.inOperand with
    | error a => exact .unwritten a rfl hd
    | ok d => exact pastChecks_putResult hf hd _ _

theorem execUnpad_guarded :
    Guarded .unpad s (PastChecks .unpad s)
      [(s.bufBytes < inLen s, .capacityExceeded), (inLen s = 0, .emptyInput)] (execUnpad s) := by
  rw [execUnpad, command_live hf]
  refine .tested Iff.rfl fun _ => .tested Iff.rfl fun _ => .nil ?_
  cases hd : s.inOperand with
  | error a => exact .unwritten a rfl hd
  | ok d => exact pastChecks_finishUnpad hf hd 255 d s.unwrittenRead

theorem encryptBuffer_guarded (hr : readsIn i = true) (f : List Block → List Block) :
    Guarded i s (PastChecks i s)
      [(s.keyValid = false, .noKeySchedule), (s.bufBytes < inLen s, .capacityExceeded),
        (s.bufBytes < 16 * (inLen s / 16 + 1), .capacityExceeded)] (encryptBuffer (encode i) f s) := by
  rw [encryptBuffer, command_live hf]
  refine .tested (by simp) fun _ => .tested Iff.rfl fun _ => .tested ?_ fun _ => .nil ?_
  · rw [padCount_multiple _ (by decide), inLen]
  · cases hd : s.inOperand with
    | error a => exact .unwritten a hr hd
    | ok d => exact pastChecks_putResult hf hd _ _

theorem decryptBuffer_guarded (hr : readsIn i = true) (f : List Block → List Block) :
    Guarded i s (PastChecks i s)
      [(s.keyValid = false, .noKeySchedule), (s.bufBytes < inLen s, .capacityExceeded), (inLen s = 0, .emptyInput),
        (inLen s % 16 ≠ 0, .partialFinalBlock)] (decryptBuffer (encode i) f s) := by
  rw [decryptBuffer, command_live hf]
  refine .tested (by simp) fun _ => .tested Iff.rfl fun _ => .tested Iff.rfl fun _ => .tested Iff.rfl fun _ => .nil ?_
  cases hd : s.inOperand with
  | error a => exact .unwritten a hr hd
  | ok c => exact pastChecks_finishUnpad hf hd 16 _ _

/-- Every live command checks the conditions of orders 2 to 7 of R233 in that order: those that cannot concern it are
false by its row of the tables, and its shape checks the others. -/
theorem exec_guarded (i : Instr) : Guarded i s (PastChecks i s) (conditions i s) (exec i s) := by
  cases i <;>
    simp only [Guarded, Reports, NoneHolds, conditions, needsSchedule, readsIn, unpads, decryptsBuffer, padsTo, exec,
      reduceCtorEq, false_and, true_and, false_or, not_false_eq_true, exists_false, Bool.false_eq_true,
      Option.some.injEq, Instr.addrk.injEq, Instr.pad.injEq, exists_eq_left']
  case keyexp => exact execKeyexp_guarded hf
  case addrk r => exact execAddrk_guarded hf r
  case encblk => exact blockCommand_guarded (i := .encblk) hf rfl s.encryptBlock
  case decblk => exact blockCommand_guarded (i := .decblk) hf rfl s.decryptBlock
  case pad bs => exact execPad_guarded hf bs
  case unpad => exact execUnpad_guarded hf
  case ecbenc => exact encryptBuffer_guarded (i := .ecbenc) hf rfl (List.map s.encryptBlock)
  case ecbdec => exact decryptBuffer_guarded (i := .ecbdec) hf rfl (List.map s.decryptBlock)
  case cbcenc z => exact encryptBuffer_guarded (i := .cbcenc z) hf rfl (cbcEncrypt s.encryptBlock (s.ivOperand z))
  case cbcdec z => exact decryptBuffer_guarded (i := .cbcdec z) hf rfl (cbcDecrypt s.decryptBlock (s.ivOperand z))
  case subbytes => exact roundCommand_guarded (i := .subbytes) hf rfl subBytes
  case invsubbytes => exact roundCommand_guarded (i := .invsubbytes) hf rfl invSubBytes
  case shiftrows => exact roundCommand_guarded (i := .shiftrows) hf rfl shiftRows
  case invshiftrows => exact roundCommand_guarded (i := .invshiftrows) hf rfl invShiftRows
  case mixcolumns => exact roundCommand_guarded (i := .mixcolumns) hf rfl mixColumns
  case invmixcolumns => exact roundCommand_guarded (i := .invmixcolumns) hf rfl invMixColumns

end Shapes

end Sys2Proof.Machine

/-! ### The checked machine beside the machine (R42) -/

namespace Sys2Proof.Machine

open Sys2Proof.Claims

/-- The operands the checked machine looks at are those R42 names. -/
theorem unwrittenRegister_eq_none_iff (i : Instr) (s : State) : unwrittenRegister i s = none ↔ ¬UnwrittenRegister i s := by
  rw [unwrittenRegister_eq_none]
  cases i <;> simp [registerOperands, UnwrittenRegister, writesState, needsSchedule]

theorem unwrittenRegister_isSome_iff (i : Instr) (s : State) :
    (unwrittenRegister i s).isSome = true ↔ UnwrittenRegister i s := by
  rw [Option.isSome_iff_ne_none, Ne, unwrittenRegister_eq_none_iff, not_not]

/-- Settles O56: the record grows by what the checked machine stops on. -/
theorem unwrittenReadIsRecorded : Obligations.UnwrittenReadIsRecorded := by
  intro s t i hf h ht
  rw [exec_unwrittenRead hf h ht]
  constructor
  · intro hu
    rw [(unwrittenRegister_isSome_iff i s).mpr hu, Bool.or_true]
  · intro hu
    rw [(unwrittenRegister_eq_none_iff i s).mpr hu, Option.isSome_none, Bool.or_false]

/-- The errors of orders 2 to 7: PADDING_INVALID is none of them. -/
theorem ne_paddingInvalid_of_reports {i : Instr} {s : State} {e : ErrCode} (h : Reports (conditions i s) e) :
    e ≠ .paddingInvalid := by
  rintro rfl
  simp [conditions, Reports] at h

section Checked
variable {i : Instr} {s : State} (hf : s.faulted = false)
include hf

theorem passedChecks_completed {t : State} (ht : t.faulted = false) : passedChecks s t = true := by
  simp [passedChecks, hf, ht]

/-- A fault passed orders 0 to 7 exactly when it is PADDING_INVALID. -/
theorem passedChecks_raise (e : ErrCode) (w : Word) : passedChecks s (s.raise e w) = decide (e = .paddingInvalid) := by
  simp only [passedChecks, hf, State.faulted_raise, State.err_raise]
  cases e <;> rfl

theorem checkedExec_of_reports {e : ErrCode} (h : Reports (conditions i s) e) : checkedExec i s = exec i s := by
  have hexec : exec i s = .next (s.raise e (encode i)) := (exec_guarded hf i).1 e h
  rw [hexec]
  refine checkedExec_of_not_passed hexec ?_
  rw [passedChecks_raise hf, decide_eq_false (ne_paddingInvalid_of_reports h)]

/-- With no condition holding, an unwritten byte of IN stops the command. -/
theorem exec_stops_at_unwritten (hn : NoneHolds (conditions i s)) (hr : readsIn i = true) (hw : ¬InWritten s) :
    ∃ a, s.inOperand = .error a ∧ exec i s = .fault (.unwrittenRead a) := by
  have hpast := (exec_guarded hf i).2 hn
  generalize exec i s = r at hpast
  cases hpast with
  | unwritten a _ ha => exact ⟨a, ha, rfl⟩
  | badPadding hi => exact absurd (hi hr) hw
  | completed _ hi => exact absurd (hi hr) hw

/-- With no condition holding and IN written, the command answers a next state: it completes, or finds bad padding. -/
theorem exec_answers_next (hn : NoneHolds (conditions i s)) (hw : readsIn i = true → InWritten s) :
    ∃ t, exec i s = .next t ∧ (t.faulted = false ∨ t = s.raise .paddingInvalid (encode i)) := by
  have hpast := (exec_guarded hf i).2 hn
  generalize exec i s = r at hpast
  cases hpast with
  | unwritten a hi ha =>
    obtain ⟨hlt, hnot, _⟩ := (State.inOperand_error_iff s a).mp ha
    rw [hw hi a hlt] at hnot
    cases hnot
  | badPadding => exact ⟨_, rfl, .inr rfl⟩
  | completed t _ ht => exact ⟨t, rfl, .inl ht⟩

/-- Past the checks the checked machine stops at an unwritten register byte. -/
theorem checkedExec_stops (hn : NoneHolds (conditions i s)) (hw : readsIn i = true → InWritten s)
    (hu : UnwrittenRegister i s) : ∃ a j, s.written a j = false ∧ checkedExec i s = .fault (.unwrittenRegister a j) := by
  obtain ⟨t, hexec, ht⟩ := exec_answers_next hf hn hw
  obtain ⟨p, hp⟩ := Option.isSome_iff_exists.mp ((unwrittenRegister_isSome_iff i s).mpr hu)
  have hpassed : passedChecks s t = true := by
    rcases ht with ht | rfl
    · exact passedChecks_completed hf ht
    · rw [passedChecks_raise hf, decide_eq_true rfl]
  exact ⟨p.1, p.2, unwrittenRegister_eq_some hp, checkedExec_of_unwritten hexec hpassed hp⟩

/-- With every operand byte written the command records nothing. -/
theorem exec_records_nothing (hn : NoneHolds (conditions i s)) (hw : readsIn i = true → InWritten s)
    (hu : ¬UnwrittenRegister i s) : ∃ t, exec i s = .next t ∧ t.unwrittenRead = s.unwrittenRead := by
  obtain ⟨t, hexec, ht⟩ := exec_answers_next hf hn hw
  refine ⟨t, hexec, ?_⟩
  rcases ht with ht | rfl
  · exact (unwrittenReadIsRecorded s t i hf hexec ht).2 hu
  · rfl

end Checked

/-- A write of CMD that is ignored or illegal runs no command, on either machine. -/
theorem issueCommand_congr_run (run run' : Instr → State → Result) {w : Word} {s : State}
    (h : s.faulted = true ∨ decode w = none) : issueCommand run w s = issueCommand run' w s := by
  cases hf : s.faulted with
  | true => rw [issueCommand_faulted hf, issueCommand_faulted hf]
  | false =>
    have hd : decode w = none := h.resolve_left (by rw [hf]; decide)
    rw [issueCommand_illegal hf hd, issueCommand_illegal hf hd]

@[simp] theorem written_taken (rest : List HostOp) (s : State) (a : ByteArr) (j : Nat) :
    (taken rest s).written a j = s.written a j := by cases a <;> rfl

/-- Settles O60: the two machines differ in how a decoded command runs, so the clauses are those of checkedExec. -/
theorem checkedStepRaisesUnwrittenRead : Obligations.CheckedStepRaisesUnwrittenRead := by
  intro s
  refine ⟨stepWith_congr_run checkedExec exec, fun w rest hops => ?_⟩
  have hchecked : checkedStep s = issueCommand checkedExec w (taken rest s) := stepWith_cmd hops
  have hstep : step s = issueCommand exec w (taken rest s) := stepWith_cmd hops
  rw [hchecked, hstep]
  refine ⟨fun h => issueCommand_congr_run checkedExec exec h, fun hf i hd => ?_⟩
  have hlive : (taken rest s).faulted = false := hf
  rw [issueCommand_decoded hlive hd, issueCommand_decoded hlive hd]
  refine ⟨fun e he => checkedExec_of_reports hlive he, fun hn hr hw => ?_, fun hn hw hu => ?_, fun hn hw hu => ?_⟩
  · obtain ⟨a, ha, hexec⟩ := exec_stops_at_unwritten hlive hn hr hw
    obtain ⟨hlt, hnot, _⟩ := (State.inOperand_error_iff _ a).mp ha
    exact ⟨a, hlt, by simpa using hnot, checkedExec_of_fault hexec⟩
  · simpa using checkedExec_stops hlive hn hw hu
  · exact ⟨checkedExec_of_written ((unwrittenRegister_eq_none_iff i _).mpr hu), exec_records_nothing hlive hn hw hu⟩

/-! ### The step, the fields and the reset tables -/

/-- Settles O6. -/
theorem stepRunsTheDecodedCommand : Obligations.StepRunsTheDecodedCommand := by
  intro s w rest i hops hf hd
  exact (stepWith_cmd hops).trans (issueCommand_decoded (s := taken rest s) hf hd)

theorem getField_eq_div_mod (lo width : Nat) (w : Word) : getField lo width w = w.toNat / 2 ^ lo % 2 ^ width := by
  rw [getField, BitVec.extractLsb'_toNat, Nat.shiftRight_eq_div_pow]

theorem getLsbD_eq_true_iff (w : Word) (i : Nat) : w.getLsbD i = true ↔ w.toNat / 2 ^ i % 2 = 1 := by
  rw [← BitVec.testBit_toNat, Nat.testBit_eq_decide_div_mod_eq, decide_eq_true_iff]

/-- Settles O12. -/
theorem controlFieldsLieWhereTheTablesSay : Obligations.ControlFieldsLieWhereTheTablesSay := by
  intro s
  have hbit0 (w : Word) : w.getLsbD 0 = true ↔ w.toNat % 2 = 1 := by simpa using getLsbD_eq_true_iff w 0
  exact ⟨hbit0 s.status, getLsbD_eq_true_iff s.status 1, getField_eq_div_mod 4 4 s.status,
    getField_eq_div_mod 8 4 s.status, getField_eq_div_mod 16 8 s.status, hbit0 s.ctrl⟩

/-- Settles O13. -/
theorem resetGivesTheResetTable : Obligations.ResetGivesTheResetTable := by
  intro s rest hops
  refine ⟨(s.takeOp rest).doReset, step_cons hops, rfl, fun i _ => ?_, rfl, rfl, rfl, rfl, rfl,
    fun a i ha hi => State.written_doReset _ a i ha ?_, rfl, rfl⟩
  · exact byteAt_replicate_zero 16 i
  · cases a <;> exact hi

/-- The state after power-on marks what a reset state marks. -/
theorem written_reset (a : ByteArr) (i : Nat) : State.reset.written a i = State.reset.doReset.written a i := by
  cases a <;> rfl

/-- Settles O14. -/
theorem powerOnGivesTheResetTable : Obligations.PowerOnGivesTheResetTable := by
  refine ⟨rfl, fun i _ => byteAt_replicate_zero 16 i, rfl, rfl, rfl, rfl, rfl, fun a i ha hi => ?_, ?_, rfl⟩
  · rw [written_reset, State.written_doReset _ a i ha hi]
  · unfold LegalCapacity; decide

theorem buffersCanonical_reset : BuffersCanonical State.reset := by
  refine ⟨by unfold LegalCapacity; decide, rfl, rfl, Nat.zero_le _, fun i hi => ?_⟩
  cases hi

/-- Settles O59. -/
theorem invariantsHoldAtPowerOn : Obligations.InvariantsHoldAtPowerOn :=
  ⟨fieldsLegal_reset, buffersCanonical_reset, scheduleCurrent_of_invalid (by decide)⟩

end Sys2Proof.Machine

/-! ### The buffers stay canonical (20_memory.md R51, 10_state.md R36) -/

namespace Sys2Proof.Machine

open Sys2Proof.Claims

/-- What the invariant looks at: the capacity, the two buffers and OUTLEN. -/
theorem buffersCanonical_congr {s t : State} (hb : t.bufBytes = s.bufBytes) (hin : t.inBuf = s.inBuf)
    (hout : t.outBuf = s.outBuf) (hl : t.outlen = s.outlen) (h : BuffersCanonical s) : BuffersCanonical t := by
  simpa only [BuffersCanonical, LegalCapacity, State.written, hb, hin, hout, hl] using h

/-- OUTLEN holds the length of a result that fits a legal capacity. -/
theorem State.toNat_outlen_putResult {s : State} {l : List Byte} (hc : LegalCapacity s) (hl : l.length ≤ s.bufBytes) :
    (s.putResult l).outlen.toNat = l.length := by
  have hmax : s.bufBytes ≤ 4294967295 := hc.2
  rw [State.putResult_outlen, BitVec.toNat_ofNat, Nat.mod_eq_of_lt (by omega)]

theorem buffersCanonical_putResult {s : State} {l : List Byte} (hl : l.length ≤ s.bufBytes) (h : BuffersCanonical s) :
    BuffersCanonical (s.putResult l) := by
  obtain ⟨hcap, hin, _, _, _⟩ := h
  have hlen := State.toNat_outlen_putResult hcap hl
  refine ⟨hcap, hin, Memory.wf_ofBytesFrom l hl, by rw [hlen]; exact hl, fun i hi => ?_⟩
  rw [State.written_putResult_out, decide_eq_true_iff] at hi
  rw [hlen]
  exact hi

theorem buffersCanonical_answer {i : Instr} {s t : State} (h : BuffersCanonical s) (ha : Answer i s t) :
    BuffersCanonical t := by
  cases ha with
  | ignored => exact h
  | fault => exact buffersCanonical_congr (s := s) rfl rfl rfl rfl h
  | schedule => exact buffersCanonical_congr (s := s) (by simp) (by simp) (by simp) (by simp) h
  | state => exact buffersCanonical_congr (s := s) rfl rfl rfl rfl h
  | out u l hl => exact buffersCanonical_putResult hl (buffersCanonical_congr (s := s) rfl rfl rfl rfl h)

/-- RESET keeps the capacity and empties both buffers. -/
theorem buffersCanonical_doReset {s : State} (h : BuffersCanonical s) : BuffersCanonical s.doReset := by
  obtain ⟨hcap, _⟩ := h
  refine ⟨hcap, Memory.wf_nil _, Memory.wf_nil _, Nat.zero_le _, fun i hi => ?_⟩
  cases hi

/-- A host byte write inside the array reaches IN alone of the two buffers. -/
theorem buffersCanonical_writeByte {s : State} {a : ByteArr} {i : Nat} (b : Byte) (hi : i < s.size a)
    (h : BuffersCanonical s) : BuffersCanonical (s.writeByte a i b) := by
  cases a with
  | inBuf =>
    obtain ⟨hcap, hin, hout⟩ := h
    exact ⟨hcap, Memory.wf_write s.inBuf i b hin hi, hout⟩
  | _ => exact buffersCanonical_congr (s := s) rfl rfl rfl rfl h

/-- Settles O58: a result that fits the capacity and a byte write inside IN keep the form, RESET empties the buffers, and
nothing else touches what the invariant looks at. -/
theorem buffersStayCanonical : Obligations.BuffersStayCanonical :=
  step_invariant BuffersCanonical
    (htake := fun s _ => buffersCanonical_congr (s := s) rfl rfl rfl rfl)
    (hreply := fun s _ => buffersCanonical_congr (s := s) rfl rfl rfl rfl)
    (hexec := fun _ _ _ => buffersCanonical_answer)
    (hillegal := fun s _ _ => buffersCanonical_congr (s := s) rfl rfl rfl rfl)
    (hreset := fun _ => buffersCanonical_doReset)
    (hkeylen := fun s _ => buffersCanonical_congr (s := s) rfl rfl rfl rfl)
    (hctrl := fun s _ => buffersCanonical_congr (s := s) rfl rfl rfl rfl)
    (hinlen := fun s _ => buffersCanonical_congr (s := s) rfl rfl rfl rfl)
    (hbyte := fun _ _ _ b => buffersCanonical_writeByte b)

end Sys2Proof.Machine

/-! ### Host reads and writes (20_memory.md R53, R54) -/

namespace Sys2Proof.Machine

open Sys2Proof.Claims

/-- Taking an operation off the list changes no array: neither its size nor its written marks. -/
@[simp] theorem State.size_takeOp (rest : List HostOp) (s : State) (a : ByteArr) : (s.takeOp rest).size a = s.size a := by
  cases a <;> rfl

@[simp] theorem State.written_takeOp (rest : List HostOp) (s : State) (a : ByteArr) (j : Nat) :
    (s.takeOp rest).written a j = s.written a j := by cases a <;> rfl

section ByteAccess
variable {s : State} {a : ByteArr} {i : Nat} {b : Byte} {rest : List HostOp}

theorem step_writeByte (h : s.hostOps = .writeByte a i b :: rest) (hi : i < s.size a) :
    step s = .next ((s.takeOp rest).writeByte a i b) := by
  rw [step_cons h, hostStep, if_pos (by simpa using hi)]

theorem step_writeByte_refused (h : s.hostOps = .writeByte a i b :: rest) (hi : s.size a ≤ i) :
    step s = .refused (.hostIndexOutOfRange a i) := by
  rw [step_cons h, hostStep, if_neg (by simpa using hi)]

theorem step_readByte (h : s.hostOps = .readByte a i :: rest) (hi : i < s.size a) :
    step s = .next { taken rest s with reply := some ((s.readByte a i).setWidth 32) } := by
  rw [step_cons h, hostStep, if_pos (by simpa using hi), State.readByte_takeOp]
  rfl

theorem step_readByte_refused (h : s.hostOps = .readByte a i :: rest) (hi : s.size a ≤ i) :
    step s = .refused (.hostIndexOutOfRange a i) := by
  rw [step_cons h, hostStep, if_neg (by simpa using hi)]

end ByteAccess

/-- Settles O18. -/
theorem outOfRangeAccessIsRefused : Obligations.OutOfRangeAccessIsRefused := by
  intro s a i b rest hi h
  rcases h with hwrite | hread
  · exact step_writeByte_refused hwrite hi
  · exact step_readByte_refused hread hi

/-- Settles O17: KEYLEN and a byte are zero-extended to the reply's 32 bits. -/
theorem hostReadsChangeNothing : Obligations.HostReadsChangeNothing := by
  intro s rest
  refine ⟨fun r hops => ⟨s.regValue r, step_cons hops, ?_⟩, fun a i hops hi => ⟨_, step_readByte hops hi, ?_⟩⟩
  · refine ⟨?_, ?_, ?_, ?_, ?_, ?_, ?_⟩ <;> rintro rfl
    · exact BitVec.toNat_setWidth_of_le (by decide)
    all_goals rfl
  · exact BitVec.toNat_setWidth_of_le (by decide)

/-! A write of KEY or KEYLEN clears KEY_VALID, bit 1, and keeps the other bits of STATUS (R24, R25). -/

/-- Words that differ by a field write agree once all the bits of the field are set. -/
theorem setField_or_fieldMask (lo width v : Nat) (w : Word) :
    setField lo width v w ||| fieldMask lo width = w ||| fieldMask lo width := by
  apply BitVec.eq_of_getLsbD_eq
  intro i _
  rw [BitVec.getLsbD_or, BitVec.getLsbD_or, getLsbD_setField, getLsbD_fieldMask]
  split
  · next hin => simp only [hin, and_self, decide_true, Bool.or_true]
  · rfl

theorem statusOnKeyWrite_or_keyValid (st : Word) : statusOnKeyWrite st ||| 2#32 = st ||| 2#32 :=
  setField_or_fieldMask 1 1 0 st

/-- CTRL takes bit 0 of the value written (R29). -/
theorem toNat_ctrlOnWrite (v : Word) : (ctrlOnWrite v).toNat = v.toNat % 2 := by
  rw [ctrlOnWrite, BitVec.toNat_and, show (fieldMask 0 1).toNat = 1 by decide, Nat.and_one_is_mod]

/-- Settles O15, register by register. -/
theorem hostRegisterWritesFollowAccessRights : Obligations.HostRegisterWritesFollowAccessRights := by
  intro s r v rest hops
  have hstep : step s = writeReg exec r v (taken rest s) := step_cons hops
  rw [hstep]
  refine ⟨?_, ?_, ?_, ?_⟩
  · rintro rfl
    exact ⟨_, rfl, rfl, BitVec.toNat_setWidth 8 v, State.keyValid_keyTouched _, statusOnKeyWrite_or_keyValid s.status⟩
  · rintro rfl
    exact ⟨_, rfl, rfl, toNat_ctrlOnWrite v⟩
  · rintro rfl
    rfl
  · rintro (rfl | rfl | rfl) <;> rfl

/-! A host byte write, array by array. -/

section WriteByte
variable (s : State) {a : ByteArr} {i : Nat} (b : Byte)

/-- RK and OUT ignore a host write (R54). -/
theorem State.writeByte_readOnly (ha : a = .rk ∨ a = .outBuf) : s.writeByte a i b = s := by
  rcases ha with rfl | rfl <;> rfl

/-- A writable array holds the byte at its index, and what it held elsewhere. -/
theorem State.held_writeByte (hrk : a ≠ .rk) (hout : a ≠ .outBuf) (hi : i < s.size a) (j : Nat) :
    (s.writeByte a i b).held a j = if i = j then b else s.held a j := by
  cases a with
  | key => exact byteAt_setIfInBounds s.key i j b hi
  | iv => exact byteAt_setIfInBounds s.iv i j b hi
  | state => exact byteAt_setIfInBounds s.state i j b hi
  | inBuf =>
    simp only [State.held, State.writeByte, Memory.read_write, eq_comm (a := j)]
    split <;> rfl
  | rk => exact absurd rfl hrk
  | outBuf => exact absurd rfl hout

/-- A write to a writable array marks its byte and no other. -/
theorem State.written_writeByte (hrk : a ≠ .rk) (hout : a ≠ .outBuf) (hi : i < s.size a) (j : Nat) :
    (s.writeByte a i b).written a j = if i = j then true else s.written a j := by
  cases a with
  | key => exact flagAt_setIfInBounds s.keyWritten i j true hi
  | iv => exact (ite_self true).symm
  | state => exact flagAt_setIfInBounds s.stateWritten i j true hi
  | inBuf =>
    simp only [State.written, State.writeByte, Memory.read_write, eq_comm (a := j)]
    split <;> rfl
  | rk => exact absurd rfl hrk
  | outBuf => exact absurd rfl hout

theorem State.drawOf_writeByte (a' : ByteArr) : (s.writeByte a i b).drawOf a' = s.drawOf a' := by
  cases a <;> rfl

/-- The other arrays hold and mark what they did. -/
theorem State.writeByte_other {a' : ByteArr} (h : a' ≠ a) (j : Nat) :
    (s.writeByte a i b).written a' j = s.written a' j ∧ (s.writeByte a i b).held a' j = s.held a' j := by
  cases a <;> cases a' <;> first | exact absurd rfl h | exact ⟨rfl, rfl⟩

theorem State.readByte_writeByte_same (hrk : a ≠ .rk) (hout : a ≠ .outBuf) (hi : i < s.size a) :
    (s.writeByte a i b).readByte a i = b := by
  rw [State.readByte_written (by rw [State.written_writeByte s b hrk hout hi, if_pos rfl]),
    State.held_writeByte s b hrk hout hi, if_pos rfl]

/-- Every other byte of every array is marked and reads as before. -/
theorem State.writeByte_keeps_bytes (hrk : a ≠ .rk) (hout : a ≠ .outBuf) (hi : i < s.size a) {a' : ByteArr} {j : Nat}
    (h : ¬(a' = a ∧ j = i)) :
    (s.writeByte a i b).written a' j = s.written a' j ∧ (s.writeByte a i b).readByte a' j = s.readByte a' j := by
  have hkept : (s.writeByte a i b).written a' j = s.written a' j ∧ (s.writeByte a i b).held a' j = s.held a' j := by
    by_cases ha : a' = a
    · subst ha
      have hij : i ≠ j := fun hij => h ⟨rfl, hij.symm⟩
      rw [State.written_writeByte s b hrk hout hi, State.held_writeByte s b hrk hout hi, if_neg hij, if_neg hij]
      exact ⟨rfl, rfl⟩
    · exact State.writeByte_other s b ha j
  obtain ⟨hw, hh⟩ := hkept
  exact ⟨hw, State.readByte_congr a' j hh hw (State.drawOf_writeByte s b a')⟩

/-- A host byte write leaves every scalar register but STATUS, and the model's own fields. -/
theorem State.writeByte_keeps_registers :
    (s.writeByte a i b).keylen = s.keylen ∧ (s.writeByte a i b).ctrl = s.ctrl ∧ (s.writeByte a i b).errcmd = s.errcmd ∧
      (s.writeByte a i b).inlen = s.inlen ∧ (s.writeByte a i b).outlen = s.outlen ∧
      (s.writeByte a i b).bufBytes = s.bufBytes ∧ (s.writeByte a i b).unwrittenRead = s.unwrittenRead ∧
      (s.writeByte a i b).draws = s.draws ∧ (s.writeByte a i b).hostOps = s.hostOps ∧
      (s.writeByte a i b).reply = s.reply := by
  cases a <;> exact ⟨rfl, rfl, rfl, rfl, rfl, rfl, rfl, rfl, rfl, rfl⟩

theorem State.status_writeByte (ha : a ≠ .key) : (s.writeByte a i b).status = s.status := by
  cases a with
  | key => exact absurd rfl ha
  | _ => rfl

end WriteByte

/-- Settles O16. -/
theorem hostByteWriteIsReadBack : Obligations.HostByteWriteIsReadBack := by
  intro s a i b rest hops hi
  have hi' : i < (s.takeOp rest).size a := by simpa using hi
  rw [step_writeByte hops hi]
  refine ⟨fun ha => by rw [State.writeByte_readOnly _ b ha]; rfl, fun hrk hout => ⟨_, rfl, ?_, ?_, fun a' j h => ?_, ?_⟩⟩
  · rw [State.written_writeByte _ b hrk hout hi', if_pos rfl]
  · exact State.readByte_writeByte_same _ b hrk hout hi'
  · simpa using State.writeByte_keeps_bytes (s.takeOp rest) b hrk hout hi' h
  · obtain ⟨hkeylen, hctrl, herrcmd, hinlen, houtlen, hbuf, hread, hdraws, hlist, hreply⟩ :=
      State.writeByte_keeps_registers (s.takeOp rest) (a := a) (i := i) b
    refine ⟨hkeylen, hctrl, herrcmd, hinlen, houtlen, hbuf, hread, hdraws, hlist, hreply, ?_, State.status_writeByte _ b⟩
    rintro rfl
    exact ⟨State.keyValid_keyTouched _, statusOnKeyWrite_or_keyValid s.status⟩

end Sys2Proof.Machine

/-! ### Command words and their fields (R70 to R77) -/

namespace Sys2Proof

theorem toNat_opField (w : Word) : (opField w).toNat = w.toNat % 256 := by
  rw [opField, BitVec.extractLsb'_toNat, Nat.shiftRight_zero]

theorem toNat_argField (w : Word) : (argField w).toNat = w.toNat / 256 % 256 := by
  rw [argField, BitVec.extractLsb'_toNat, Nat.shiftRight_eq_div_pow]

theorem toNat_rsvField (w : Word) : (rsvField w).toNat = w.toNat / 65536 := by
  have := w.isLt
  rw [rsvField, BitVec.extractLsb'_toNat, Nat.shiftRight_eq_div_pow]
  omega

/-- A command word as a number, from its fields (R70). -/
theorem toNat_eq_fields (w : Word) :
    w.toNat = 65536 * (rsvField w).toNat + 256 * (argField w).toNat + (opField w).toNat := by
  rw [toNat_rsvField, toNat_argField, toNat_opField]
  omega

theorem toNat_encode (i : Instr) : (encode i).toNat = 256 * (argument i).toNat + (opcode i).toNat := by
  rw [toNat_eq_fields, rsvField_encode, argField_encode, opField_encode, BitVec.toNat_zero, Nat.mul_zero, Nat.zero_add]

/-- A word with RSV = 0 and a command's OP and ARG is the command's word. -/
theorem encode_eq_of_fields {i : Instr} {w : Word} (hrsv : rsvField w = 0#16) (hop : opcode i = opField w)
    (harg : argument i = argField w) : encode i = w :=
  BitVec.eq_of_toNat_eq <| by
    rw [toNat_encode, toNat_eq_fields w, hrsv, hop, harg, BitVec.toNat_zero, Nat.mul_zero, Nat.zero_add]

/-! ### What each format accepts (R71, R74) -/

theorem extractLsb'_ziv_eq_zero (a : Byte) : a.extractLsb' 1 7 = 0#7 ↔ a.toNat / 2 = 0 := by
  have := a.isLt
  rw [← BitVec.toNat_inj, BitVec.extractLsb'_toNat, Nat.shiftRight_eq_div_pow, BitVec.toNat_zero]
  omega

theorem decodeN_eq_ok {i j : Instr} {a : Byte} : decodeN i a = .ok j ↔ a = 0#8 ∧ i = j := by
  unfold decodeN
  split <;> simp [*]

theorem toOption_decodeN_eq_none {i : Instr} {a : Byte} : (decodeN i a).toOption = none ↔ a.toNat ≠ 0 := by
  rw [Ne, ← BitVec.toNat_zero (w := 8), BitVec.toNat_inj]
  unfold decodeN
  split <;> simp [*, Except.toOption]

theorem decodeZ_eq_ok {f : Bool → Instr} {j : Instr} {a : Byte} :
    decodeZ f a = .ok j ↔ a.toNat / 2 = 0 ∧ f (a.getLsbD 0) = j := by
  rw [← extractLsb'_ziv_eq_zero]
  unfold decodeZ
  split <;> simp [*]

theorem toOption_decodeZ_eq_none {f : Bool → Instr} {a : Byte} :
    (decodeZ f a).toOption = none ↔ a.toNat / 2 ≠ 0 := by
  rw [Ne, ← extractLsb'_ziv_eq_zero]
  unfold decodeZ
  split <;> simp [*, Except.toOption]

/-- An ARG whose bits 7:1 are 0 is its own ZIV flag. -/
theorem ziv_argument {a : Byte} (h : a.toNat / 2 = 0) : (if a.getLsbD 0 then 1#8 else 0#8) = a := by
  obtain rfl | rfl : a = 0#8 ∨ a = 1#8 := by
    simp only [← BitVec.toNat_inj, BitVec.toNat_ofNat]
    omega
  all_goals rfl

/-! ### Selection by OP (R72) -/

/-- The opcodes of R72 by the format R71 gives them. -/
def opcodesN : List Nat := [0x01, 0x10, 0x11, 0x12, 0x13, 0x14, 0x15, 0x20, 0x21, 0x31, 0x40, 0x41]
def opcodesRB : List Nat := [0x16, 0x30]
def opcodesZ : List Nat := [0x42, 0x43]

/-- The sixteen opcodes, in the order of R72. -/
def opcodes : List Nat :=
  [0x01, 0x10, 0x11, 0x12, 0x13, 0x14, 0x15, 0x16, 0x20, 0x21, 0x30, 0x31, 0x40, 0x41, 0x42, 0x43]

theorem listed_of_mem_opcodesN : ∀ op ∈ opcodesN, op ∈ opcodes ∧ op ∉ opcodesZ := by decide
theorem listed_of_mem_opcodesRB : ∀ op ∈ opcodesRB, op ∈ opcodes ∧ op ∉ opcodesN ∧ op ∉ opcodesZ := by decide
theorem listed_of_mem_opcodesZ : ∀ op ∈ opcodesZ, op ∈ opcodes ∧ op ∉ opcodesN := by decide

/-- What selection by OP can answer: the format N, R or B, or Z decoder of the command with that opcode, or a
rejection. -/
inductive Selected (op a : Byte) : Except Illegal Instr → Prop
  | formatN {i : Instr} (hop : op = opcode i) (hmem : (opcode i).toNat ∈ opcodesN) (hwf : i.wf = true)
      (harg : argument i = 0#8) : Selected op a (decodeN i a)
  | formatRB {i : Instr} (hop : op = opcode i) (hmem : (opcode i).toNat ∈ opcodesRB) (hwf : i.wf = true)
      (harg : argument i = a) : Selected op a (.ok i)
  | formatZ {f : Bool → Instr} (hop : ∀ z, op = opcode (f z)) (hmem : (opcode (f false)).toNat ∈ opcodesZ)
      (hwf : ∀ z, (f z).wf = true) (harg : ∀ z, argument (f z) = if z then 1#8 else 0#8) : Selected op a (decodeZ f a)
  | unlisted (h : op.toNat ∉ opcodes) : Selected op a (.error .unlistedOpcode)

theorem wf_addrk_byte (a : Byte) : (Instr.addrk a.toNat).wf = true := decide_eq_true a.isLt
theorem wf_pad_byte (a : Byte) : (Instr.pad a.toNat).wf = true := decide_eq_true a.isLt

/-- One comparison of OP with a listed value. -/
theorem Selected.compare {op a : Byte} {n : Nat} {x y : Except Illegal Instr}
    (heq : op = BitVec.ofNat 8 n → Selected op a x) (hne : op.toNat ≠ n → Selected op a y) :
    Selected op a (if op = BitVec.ofNat 8 n then x else y) := by
  split
  · next h => exact heq h
  · next h => exact hne fun hop => h (by rw [← hop, BitVec.ofNat_toNat, BitVec.setWidth_eq])

theorem decodeOp_selected (op a : Byte) : Selected op a (decodeOp op a) := by
  unfold decodeOp
  refine .compare (.formatN · (by decide) rfl rfl) fun h01 => ?_
  refine .compare (.formatN · (by decide) rfl rfl) fun h10 => ?_
  refine .compare (.formatN · (by decide) rfl rfl) fun h11 => ?_
  refine .compare (.formatN · (by decide) rfl rfl) fun h12 => ?_
  refine .compare (.formatN · (by decide) rfl rfl) fun h13 => ?_
  refine .compare (.formatN · (by decide) rfl rfl) fun h14 => ?_
  refine .compare (.formatN · (by decide) rfl rfl) fun h15 => ?_
  refine .compare (.formatRB · (by simp [opcode, opcodesRB]) (wf_addrk_byte a) (BitVec.ofNat_toNat 8 a)) fun h16 => ?_
  refine .compare (.formatN · (by decide) rfl rfl) fun h20 => ?_
  refine .compare (.formatN · (by decide) rfl rfl) fun h21 => ?_
  refine .compare (.formatRB · (by simp [opcode, opcodesRB]) (wf_pad_byte a) (BitVec.ofNat_toNat 8 a)) fun h30 => ?_
  refine .compare (.formatN · (by decide) rfl rfl) fun h31 => ?_
  refine .compare (.formatN · (by decide) rfl rfl) fun h40 => ?_
  refine .compare (.formatN · (by decide) rfl rfl) fun h41 => ?_
  refine .compare (fun h => .formatZ (fun _ => h) (by decide) (fun _ => rfl) fun _ => rfl) fun h42 => ?_
  refine .compare (fun h => .formatZ (fun _ => h) (by decide) (fun _ => rfl) fun _ => rfl) fun h43 => ?_
  exact .unlisted (by simp [opcodes, *])

/-- The command that OP and ARG select has that opcode and that argument. -/
theorem fields_of_decodeOp {op a : Byte} {i : Instr} (h : decodeOp op a = .ok i) :
    i.wf = true ∧ opcode i = op ∧ argument i = a := by
  have hsel := decodeOp_selected op a
  rw [h] at hsel
  generalize hr : (Except.ok i : Except Illegal Instr) = r at hsel
  cases hsel with
  | formatN hop _ hwf harg =>
    obtain ⟨rfl, rfl⟩ := decodeN_eq_ok.mp hr.symm
    exact ⟨hwf, hop.symm, harg⟩
  | formatRB hop _ hwf harg => cases hr; exact ⟨hwf, hop.symm, harg⟩
  | formatZ hop _ hwf harg =>
    obtain ⟨hziv, rfl⟩ := decodeZ_eq_ok.mp hr.symm
    exact ⟨hwf _, (hop _).symm, (harg _).trans (ziv_argument hziv)⟩
  | unlisted _ => cases hr

/-- The OP and ARG that select no command. -/
theorem toOption_decodeOp_eq_none (op a : Byte) :
    (decodeOp op a).toOption = none ↔
      op.toNat ∉ opcodes ∨ (op.toNat ∈ opcodesN ∧ a.toNat ≠ 0) ∨ (op.toNat ∈ opcodesZ ∧ a.toNat / 2 ≠ 0) := by
  have hsel := decodeOp_selected op a
  generalize decodeOp op a = r at hsel
  cases hsel with
  | formatN hop hmem =>
    rw [← hop] at hmem
    obtain ⟨hlisted, hZ⟩ := listed_of_mem_opcodesN _ hmem
    simp only [toOption_decodeN_eq_none, hmem, hlisted, hZ, not_true, false_and, true_and, false_or, or_false]
  | formatRB hop hmem =>
    rw [← hop] at hmem
    obtain ⟨hlisted, hN, hZ⟩ := listed_of_mem_opcodesRB _ hmem
    simp [Except.toOption, hlisted, hN, hZ]
  | formatZ hop hmem =>
    rw [← hop] at hmem
    obtain ⟨hlisted, hN⟩ := listed_of_mem_opcodesZ _ hmem
    simp only [toOption_decodeZ_eq_none, hmem, hlisted, hN, not_true, false_and, true_and, false_or]
  | unlisted h => simp [Except.toOption, h]

/-! ### decode and encode are inverse -/

/-- The family EncodeFields as one statement. -/
theorem encodeFields (i : Instr) : Laws.EncodeFields.Statement i := by
  cases i
  exacts [Laws.EncodeFields.keyexp, Laws.EncodeFields.subbytes, Laws.EncodeFields.invsubbytes,
    Laws.EncodeFields.shiftrows, Laws.EncodeFields.invshiftrows, Laws.EncodeFields.mixcolumns,
    Laws.EncodeFields.invmixcolumns, Laws.EncodeFields.addrk _, Laws.EncodeFields.encblk, Laws.EncodeFields.decblk,
    Laws.EncodeFields.pad _, Laws.EncodeFields.unpad, Laws.EncodeFields.ecbenc, Laws.EncodeFields.ecbdec,
    Laws.EncodeFields.cbcenc _, Laws.EncodeFields.cbcdec _]

/-- A command's OP and ARG select it, with the operand that ARG gives it. -/
theorem decodeOp_opcode (i : Instr) : decodeOp (opcode i) (argument i) = .ok (withArgument (argument i) i) := by
  cases i with
  | cbcenc z | cbcdec z => cases z <;> rfl
  | _ => rfl

theorem toOption_eq_some {ε α : Type} {x : Except ε α} {y : α} : x.toOption = some y ↔ x = .ok y := by
  cases x <;> simp [Except.toOption]

theorem decode_eq_decodeOp {w : Word} (h : rsvField w = 0#16) :
    decode w = (decodeOp (opField w) (argField w)).toOption := by
  simp [decode, decodeNamed, h]

theorem decode_eq_none_of_rsv {w : Word} (h : rsvField w ≠ 0#16) : decode w = none := by
  simp [decode, decodeNamed, h, Except.toOption]

/-- Settles O1: the fields of the word are the command's opcode and argument, and these select the command. -/
theorem decodeInvertsEncode : Obligations.DecodeInvertsEncode := by
  intro i hwf
  obtain ⟨hop, harg, hrsv, hoperand⟩ := encodeFields i
  rw [decode_eq_decodeOp hrsv, hop, harg, decodeOp_opcode, hoperand.mp hwf, Except.toOption]

/-- Settles O2: a word that decodes has the fields of its command's word. -/
theorem encodeInvertsDecode : Obligations.EncodeInvertsDecode := by
  intro w i h
  by_cases hrsv : rsvField w = 0#16
  · rw [decode_eq_decodeOp hrsv] at h
    obtain ⟨hwf, hop, harg⟩ := fields_of_decodeOp (toOption_eq_some.mp h)
    exact ⟨encode_eq_of_fields hrsv hop harg, hwf⟩
  · rw [decode_eq_none_of_rsv hrsv] at h
    cases h

/-! ### The words of the commands, and the illegal words -/

theorem decode_eq_some_iff (w : Word) (i : Instr) :
    decode w = some i ↔ i.wf = true ∧ w.toNat = 256 * (argument i).toNat + (opcode i).toNat := by
  rw [← toNat_encode, BitVec.toNat_inj]
  constructor
  · intro h
    obtain ⟨henc, hwf⟩ := encodeInvertsDecode w i h
    exact ⟨hwf, henc.symm⟩
  · rintro ⟨hwf, rfl⟩
    exact decodeInvertsEncode i hwf

section Words
variable {w : Word} {i : Instr}

theorem decode_formatN (hwf : i.wf = true) (harg : argument i = 0#8) :
    decode w = some i ↔ w.toNat = (opcode i).toNat := by
  simp [decode_eq_some_iff, hwf, harg]

theorem decode_formatRB {n : Nat} (hwf : i.wf = decide (n < 256)) (harg : argument i = BitVec.ofNat 8 n) :
    decode w = some i ↔ n < 256 ∧ w.toNat = 256 * n + (opcode i).toNat := by
  rw [decode_eq_some_iff, hwf, harg, decide_eq_true_iff, BitVec.toNat_ofNat]
  exact and_congr_right fun hn => by rw [Nat.mod_eq_of_lt hn]

theorem decode_formatZ {z : Bool} (hwf : i.wf = true) (harg : argument i = if z then 1#8 else 0#8) :
    decode w = some i ↔ w.toNat = 256 * z.toNat + (opcode i).toNat := by
  cases z <;> simp [decode_eq_some_iff, hwf, harg]

end Words

/-- Settles O3, clause by clause from the format of each command. -/
theorem commandWordsAreExactlyTheTable : Obligations.CommandWordsAreExactlyTheTable := fun _ =>
  ⟨decode_formatN rfl rfl, decode_formatN rfl rfl, decode_formatN rfl rfl, decode_formatN rfl rfl,
    decode_formatN rfl rfl, decode_formatN rfl rfl, decode_formatN rfl rfl, fun _ => decode_formatRB rfl rfl,
    decode_formatN rfl rfl, decode_formatN rfl rfl, fun _ => decode_formatRB rfl rfl, decode_formatN rfl rfl,
    decode_formatN rfl rfl, decode_formatN rfl rfl, fun _ => decode_formatZ rfl rfl, fun _ => decode_formatZ rfl rfl⟩

/-- Settles O4: with RSV = 0 a word is illegal exactly when its OP and ARG select no command. -/
theorem illegalWordsAreExactlyThese : Obligations.IllegalWordsAreExactlyThese := by
  intro w rsv arg op
  have hrsv : rsvField w = 0#16 ↔ rsv = 0 := by
    rw [← BitVec.toNat_inj, toNat_rsvField, BitVec.toNat_zero]
  by_cases h : rsvField w = 0#16
  · rw [decode_eq_decodeOp h, toOption_decodeOp_eq_none, toNat_opField, toNat_argField]
    exact (or_iff_right (not_not.mpr (hrsv.mp h))).symm
  · exact iff_of_true (decode_eq_none_of_rsv h) (.inl (mt hrsv.mpr h))

/-- Settles O5, each word evaluated. -/
theorem exampleWordsDecode : Obligations.ExampleWordsDecode := by
  unfold Obligations.ExampleWordsDecode
  decide

end Sys2Proof

/-! ### The round commands compose to ENCBLK and DECBLK (30_encoding.md R79) -/

namespace Sys2Proof.Machine

open Sys2Proof.Claims

theorem core_run_add (M : Host.Core) {m n : Nat} {s t : M.State} (h : M.run m s = .next t) :
    M.run (m + n) s = M.run n t := by
  induction m generalizing s with
  | zero => cases h; rw [Nat.zero_add]
  | succ m ih =>
    obtain ⟨s', hs, hrun⟩ := core_run_succ M h
    rw [Nat.succ_add_eq_add_succ, Nat.add_succ, Host.Core.run, hs]
    exact ih hrun

theorem core_run_one (M : Host.Core) {s t : M.State} (h : M.step s = .next t) : M.run 1 s = .next t := by
  simp only [Host.Core.run, h]

/-- A state on the way of a program of commands on STATE, started from `s`: it holds the block `b`, `ops` are still to
come, and what such commands read or leave besides STATE is as in `s`. -/
structure Midway (s : State) (ops : List HostOp) (b : Block) (t : State) : Prop where
  ops : t.hostOps = ops
  block : t.stateOperand = b
  status : t.status = s.status
  rk : t.rk = s.rk
  roundKey : t.roundKey = s.roundKey
  outBuf : t.outBuf = s.outBuf

/-- The program, one step per host operation, turns the block `b` in STATE into `b'`. -/
def Transforms (s : State) (p : List Directive) (b b' : Block) : Prop :=
  ∀ (t : State) (rest : List HostOp), Midway s (programOps p ++ rest) b t →
    ∃ t', Sys2Proof.core.run (programOps p).length t = .next t' ∧ Midway s rest b' t'

section Programs
variable {s : State} {p q : List Directive} {b b' b'' : Block}

theorem Transforms.nil : Transforms s [] b b := fun t _ h => ⟨t, rfl, h⟩

theorem programOps_append (p q : List Directive) : programOps (p ++ q) = programOps p ++ programOps q :=
  List.flatMap_append

theorem Transforms.append (hp : Transforms s p b b') (hq : Transforms s q b' b'') : Transforms s (p ++ q) b b'' := by
  intro t rest h
  rw [programOps_append, List.append_assoc] at h
  obtain ⟨t', hrun, h'⟩ := hp t _ h
  obtain ⟨t'', hrun', h''⟩ := hq t' rest h'
  exact ⟨t'', by rw [programOps_append, List.length_append, core_run_add _ hrun, hrun'], h''⟩

theorem Transforms.cons {d : Directive} (hd : Transforms s [d] b b') (hp : Transforms s p b' b'') :
    Transforms s (d :: p) b b'' := hd.append hp

/-- A whole run from `s` starts midway with the block in STATE. -/
theorem runOps_of_transforms (h : Transforms s p s.stateOperand b) :
    ∃ t, runOps s (programOps p) = .next t ∧ Midway s [] b t :=
  h _ [] ⟨(List.append_nil _).symm, rfl, rfl, rfl, rfl, rfl⟩

end Programs

/-! What the commands on STATE do to a state midway. -/

section Midway
variable {s t : State} {ops : List HostOp} {b : Block}

theorem Midway.faulted (h : Midway s ops b t) : t.faulted = s.faulted := by
  rw [State.faulted, h.status, ← State.faulted]

theorem Midway.keyValid (h : Midway s ops b t) : t.keyValid = s.keyValid := by
  rw [State.keyValid, h.status, ← State.keyValid]

theorem Midway.nr (h : Midway s ops b t) : t.nr = s.nr := by rw [State.nr, h.status, ← State.nr]

theorem Midway.noteRead (a : ByteArr) (lo n : Nat) (h : Midway s ops b t) : Midway s ops b (t.noteRead a lo n) :=
  ⟨h.ops, h.block, h.status, h.rk, h.roundKey, h.outBuf⟩

theorem Midway.putState (b' : Block) (h : Midway s ops b t) : Midway s ops b' (t.putState b') :=
  ⟨h.ops, State.stateOperand_putState t b', h.status, h.rk, h.roundKey, h.outBuf⟩

end Midway

theorem State.nr_lt (s : State) : s.nr < 16 := getField_lt 8 4 s.status

theorem execAddrk_live {r : Nat} {s : State} (hf : s.faulted = false) (hk : s.keyValid = true) (hr : r ≤ s.nr) :
    execAddrk r s =
      .next (((s.noteRead .state 0 16).noteRead .rk (16 * r) 16).putState (xorBlock s.stateOperand (s.roundKey r))) := by
  simp [execAddrk, command_live hf, hk, Nat.not_lt.mpr hr]

theorem blockCommand_live (w : Word) (f : Block → Block) {s : State} (hf : s.faulted = false) (hk : s.keyValid = true) :
    blockCommand w f s = .next ((s.noteRead .state 0 16).noteRoundKeys.putState (f s.stateOperand)) := by
  simp [blockCommand, command_live hf, hk]

section Live
variable {s : State} (hf : s.faulted = false) (hk : s.keyValid = true)
include hf

/-- One command word is one step, and the step is the command's meaning. -/
theorem transforms_command {i : Instr} {b b' : Block} (hwf : i.wf = true)
    (h : ∀ t rest, Midway s rest b t → ∃ t', exec i t = .next t' ∧ Midway s rest b' t') :
    Transforms s [.cmd i] b b' := by
  intro t rest hm
  obtain ⟨t', hexec, hm'⟩ := h (taken rest t) rest ⟨rfl, hm.block, hm.status, hm.rk, hm.roundKey, hm.outBuf⟩
  have hstep := stepRunsTheDecodedCommand t _ rest i hm.ops (hm.faulted.trans hf) (decodeInvertsEncode i hwf)
  exact ⟨t', core_run_one Sys2Proof.core (hstep.trans hexec), hm'⟩

theorem transforms_round {i : Instr} {f : Block → Block} (hwf : i.wf = true)
    (hexec : ∀ t, exec i t = roundCommand f t) (b : Block) : Transforms s [.cmd i] b (f b) :=
  transforms_command hf hwf fun t _ hm =>
    ⟨_, (hexec t).trans (roundCommand_live f (hm.faulted.trans hf)),
      hm.block ▸ (hm.noteRead .state 0 16).putState (f t.stateOperand)⟩

theorem transforms_subbytes (b : Block) : Transforms s [.cmd .subbytes] b (subBytes b) :=
  transforms_round hf rfl (fun _ => rfl) b

theorem transforms_shiftrows (b : Block) : Transforms s [.cmd .shiftrows] b (shiftRows b) :=
  transforms_round hf rfl (fun _ => rfl) b

theorem transforms_mixcolumns (b : Block) : Transforms s [.cmd .mixcolumns] b (mixColumns b) :=
  transforms_round hf rfl (fun _ => rfl) b

theorem transforms_invsubbytes (b : Block) : Transforms s [.cmd .invsubbytes] b (invSubBytes b) :=
  transforms_round hf rfl (fun _ => rfl) b

theorem transforms_invshiftrows (b : Block) : Transforms s [.cmd .invshiftrows] b (invShiftRows b) :=
  transforms_round hf rfl (fun _ => rfl) b

theorem transforms_invmixcolumns (b : Block) : Transforms s [.cmd .invmixcolumns] b (invMixColumns b) :=
  transforms_round hf rfl (fun _ => rfl) b

include hk

theorem transforms_addrk {r : Nat} (hr : r ≤ s.nr) (b : Block) :
    Transforms s [.cmd (.addrk r)] b (xorBlock b (s.roundKey r)) := by
  have hwf : (Instr.addrk r).wf = true := decide_eq_true (by have := s.nr_lt; omega)
  refine transforms_command hf hwf fun t _ hm =>
    ⟨_, execAddrk_live (hm.faulted.trans hf) (hm.keyValid.trans hk) (hm.nr.symm ▸ hr), ?_⟩
  rw [hm.block, hm.roundKey]
  exact ((hm.noteRead .state 0 16).noteRead .rk (16 * r) 16).putState _

/-! ### The rounds of ENCBLK (43_block_cipher.md R160) -/

theorem transforms_encRound {r : Nat} (hr : r ≤ s.nr) (b : Block) :
    Transforms s (Pseudo.round r).expand b (encRound s.roundKey r b) :=
  (transforms_subbytes hf b).cons <| (transforms_shiftrows hf _).cons <| (transforms_mixcolumns hf _).cons <|
    transforms_addrk hf hk hr _

theorem transforms_finalround {r : Nat} (hr : r ≤ s.nr) (b : Block) :
    Transforms s (Pseudo.finalround r).expand b (xorBlock (shiftRows (subBytes b)) (s.roundKey r)) :=
  (transforms_subbytes hf b).cons <| (transforms_shiftrows hf _).cons <| transforms_addrk hf hk hr _

theorem transforms_encRounds {n : Nat} (hn : n ≤ s.nr) (b : Block) :
    Transforms s ((List.range n).flatMap fun k => (Pseudo.round (k + 1)).expand) b (encRounds s.roundKey n b) := by
  induction n with
  | zero => exact .nil
  | succ n ih =>
    rw [List.range_succ, List.flatMap_append, List.flatMap_singleton]
    exact (ih (by omega)).append (transforms_encRound hf hk hn _)

theorem transforms_cipher (b : Block) : Transforms s (encryptRoundsProgram s.nr) b (s.encryptBlock b) :=
  ((transforms_addrk hf hk (Nat.zero_le _) b).cons (transforms_encRounds hf hk (Nat.sub_le _ _) _)).append
    (transforms_finalround hf hk le_rfl _)

/-! ### The rounds of DECBLK (R161)

R161 ends its interior round with InvShiftRows and InvSubBytes, the pseudo-instruction invround starts with them: so the
rounds of the program and the two commands after them make up the rounds of R161 and the two before them. -/

theorem transforms_invround {r : Nat} (hr : r ≤ s.nr) (b : Block) :
    Transforms s (Pseudo.invround r).expand b
      (invMixColumns (xorBlock (invSubBytes (invShiftRows b)) (s.roundKey r))) :=
  (transforms_invshiftrows hf b).cons <| (transforms_invsubbytes hf _).cons <| (transforms_addrk hf hk hr _).cons <|
    transforms_invmixcolumns hf _

theorem transforms_decRounds {n : Nat} (hn : n ≤ s.nr) (b : Block) :
    Transforms s
      (((List.range n).flatMap fun k => (Pseudo.invround (n - k)).expand) ++ [.cmd .invshiftrows, .cmd .invsubbytes]) b
      (decRounds s.roundKey n (invSubBytes (invShiftRows b))) := by
  induction n generalizing b with
  | zero => exact (transforms_invshiftrows hf b).cons (transforms_invsubbytes hf _)
  | succ n ih =>
    rw [List.range_succ_eq_map, List.flatMap_cons, List.flatMap_map, List.append_assoc]
    simp only [Nat.sub_zero, Nat.succ_eq_add_one, Nat.add_sub_add_right]
    exact (transforms_invround hf hk hn b).append (ih (by omega) _)

theorem transforms_invCipher (b : Block) : Transforms s (decryptRoundsProgram s.nr) b (s.decryptBlock b) := by
  have h := ((transforms_addrk hf hk le_rfl b).cons (transforms_decRounds hf hk (Nat.sub_le _ 1) _)).append
    (transforms_addrk hf hk (Nat.zero_le _) _)
  rwa [List.cons_append, List.append_assoc] at h

/-! ### The programs and the block commands -/

/-- A program that turns the block in STATE into what a block command makes of it ends as that command does. -/
theorem program_ends_as_blockCommand {p : List Directive} {f : Block → Block} {w : Word}
    (h : Transforms s p s.stateOperand (f s.stateOperand)) :
    ∃ t u, runOps s (programOps p) = .next t ∧ blockCommand w f s = .next u ∧
      (∀ i, i < 16 → t.readByte .state i = u.readByte .state i) ∧ t.status = s.status ∧ t.rk = s.rk ∧
      t.outBuf = s.outBuf := by
  obtain ⟨t, hrun, hm⟩ := runOps_of_transforms h
  refine ⟨t, _, hrun, blockCommand_live w f hf hk, fun i hi => ?_, hm.status, hm.rk, hm.outBuf⟩
  rw [← State.byteAt_stateOperand t hi, hm.block, State.readByte_putState_state _ _ hi]

end Live

/-- Settles O38, composing the round commands one by one. -/
theorem roundCommandsComposeToEncblk : Obligations.RoundCommandsComposeToEncblk := fun s hf hk =>
  program_ends_as_blockCommand hf hk (transforms_cipher hf hk s.stateOperand)

/-- Settles O39, composing the inverse round commands one by one. -/
theorem inverseRoundCommandsComposeToDecblk : Obligations.InverseRoundCommandsComposeToDecblk := fun s hf hk =>
  program_ends_as_blockCommand hf hk (transforms_invCipher hf hk s.stateOperand)

end Sys2Proof.Machine

/-! ### The field GF(2^8) (40_gf_tables.md R100)

Multiplication is additive in each argument and commutes with doubling of its left one. A law of the field then holds
for every byte as soon as it holds for the eight bytes `xtime^j(1)`, whose sums are all the bytes. -/

namespace Sys2Proof.Machine

/-! #### Doubling -/

theorem toNat_xtime (a : Byte) :
    (xtime a).toNat = if 128 ≤ a.toNat then (2 * a.toNat) ^^^ 0x11b else 2 * a.toNat := by
  revert a; decide

theorem xor_xor_xor_comm (p q r t : Byte) : (p ^^^ q) ^^^ (r ^^^ t) = (p ^^^ r) ^^^ (q ^^^ t) := by
  ac_rfl

/-- Adding `m` under a condition is additive: under both conditions the two `m` cancel. -/
theorem ite_xor (c d : Bool) (m p q : Byte) :
    (if c ^^ d then p ^^^ q ^^^ m else p ^^^ q) = (if c then p ^^^ m else p) ^^^ (if d then q ^^^ m else q) := by
  cases c <;> cases d
  case false.false => rfl
  case false.true => exact BitVec.xor_assoc ..
  case true.false =>
    change p ^^^ q ^^^ m = p ^^^ m ^^^ q
    ac_rfl
  case true.true =>
    calc p ^^^ q = p ^^^ q ^^^ (m ^^^ m) := by rw [BitVec.xor_self, BitVec.xor_zero]
      _ = (p ^^^ m) ^^^ (q ^^^ m) := xor_xor_xor_comm ..

@[simp] theorem xtime_zero : xtime 0#8 = 0#8 := rfl

theorem xtime_xor (a b : Byte) : xtime (a ^^^ b) = xtime a ^^^ xtime b := by
  unfold xtime
  rw [BitVec.getLsbD_xor, BitVec.shiftLeft_xor_distrib]
  exact ite_xor ..

theorem xtimes_xor (j : Nat) (a b : Byte) : xtimes j (a ^^^ b) = xtimes j a ^^^ xtimes j b := by
  induction j with
  | zero => rfl
  | succ j ih => rw [xtimes, ih, xtime_xor, xtimes, xtimes]

theorem xtimes_xtime (j : Nat) (a : Byte) : xtimes j (xtime a) = xtime (xtimes j a) := by
  induction j with
  | zero => rfl
  | succ j ih => rw [xtimes, ih, xtimes]

theorem xtimes_eq_iterate (j : Nat) (a : Byte) : xtimes j a = Nat.iterate xtime j a := by
  induction j with
  | zero => rfl
  | succ j ih => rw [xtimes, ih, Function.iterate_succ_apply']

/-- Below `x^8` nothing is reduced. -/
theorem xtimes_one {j : Nat} (hj : j < 8) : xtimes j 1#8 = 1#8 <<< j := by
  revert j; decide

/-! #### The product, one bit of its right argument at a time -/

/-- The body of the loop of `gmul`. -/
def gmulStep (a b p : Byte) (j : Nat) : Byte := if b.getLsbD j then p ^^^ xtimes j a else p

theorem gmul_eq_foldl (a b : Byte) : gmul a b = (List.range 8).foldl (gmulStep a b) 0#8 := rfl

theorem gmulStep_xor_left (a a' b p q : Byte) (j : Nat) :
    gmulStep (a ^^^ a') b (p ^^^ q) j = gmulStep a b p j ^^^ gmulStep a' b q j := by
  unfold gmulStep
  split
  · rw [xtimes_xor, xor_xor_xor_comm]
  · rfl

theorem gmulStep_xor_right (a b c p q : Byte) (j : Nat) :
    gmulStep a (b ^^^ c) (p ^^^ q) j = gmulStep a b p j ^^^ gmulStep a c q j := by
  unfold gmulStep
  rw [BitVec.getLsbD_xor]
  exact ite_xor ..

theorem gmulStep_xtime_left (a b p : Byte) (j : Nat) : gmulStep (xtime a) b (xtime p) j = xtime (gmulStep a b p j) := by
  unfold gmulStep
  split
  · rw [xtimes_xtime, xtime_xor]
  · rfl

theorem gmul_xor_left (a a' b : Byte) : gmul (a ^^^ a') b = gmul a b ^^^ gmul a' b :=
  List.foldl_hom₂ (List.range 8) (· ^^^ ·) _ _ _ 0#8 0#8 fun p q j => (gmulStep_xor_left a a' b p q j).symm

theorem gmul_xor_right (a b c : Byte) : gmul a (b ^^^ c) = gmul a b ^^^ gmul a c :=
  List.foldl_hom₂ (List.range 8) (· ^^^ ·) _ _ _ 0#8 0#8 fun p q j => (gmulStep_xor_right a b c p q j).symm

theorem gmul_xtime_left (a b : Byte) : gmul (xtime a) b = xtime (gmul a b) := by
  rw [gmul_eq_foldl, gmul_eq_foldl, ← List.foldl_hom xtime (gmulStep_xtime_left a b), xtime_zero]

theorem gmul_xtimes_left (j : Nat) (a b : Byte) : gmul (xtimes j a) b = xtimes j (gmul a b) := by
  induction j with
  | zero => rfl
  | succ j ih => rw [xtimes, gmul_xtime_left, ih, xtimes]

@[simp] theorem gmul_zero (a : Byte) : gmul a 0#8 = 0#8 := rfl

@[simp] theorem zero_gmul (b : Byte) : gmul 0#8 b = 0#8 := by
  simpa using gmul_xor_left 0#8 0#8 b

/-- A power of `x` has one bit, so the loop adds one term. -/
theorem gmul_xtimes_one (a : Byte) {j : Nat} (hj : j < 8) : gmul a (xtimes j 1#8) = xtimes j a := by
  interval_cases j <;> exact BitVec.zero_xor

@[simp] theorem gmul_one (a : Byte) : gmul a 1#8 = a := gmul_xtimes_one a (j := 0) (by decide)

/-- The bits of a byte add up to the byte. -/
@[simp] theorem one_gmul (b : Byte) : gmul 1#8 b = b := by
  revert b; decide

/-! #### The laws of the field -/

/-- Every byte is a sum of powers of `x`. -/
theorem byte_induction {P : Byte → Prop} (zero : P 0#8) (xor : ∀ a b, P a → P b → P (a ^^^ b))
    (power : ∀ j, j < 8 → P (xtimes j 1#8)) (b : Byte) : P b := by
  rw [← one_gmul b, gmul_eq_foldl]
  refine List.foldlRecOn _ _ zero fun p hp j hj => ?_
  unfold gmulStep
  split
  · exact xor p _ hp (power j (List.mem_range.mp hj))
  · exact hp

theorem gmul_comm (a b : Byte) : gmul a b = gmul b a := by
  induction b using byte_induction with
  | zero => rw [gmul_zero, zero_gmul]
  | xor b c hb hc => rw [gmul_xor_right, hb, hc, gmul_xor_left]
  | power j hj => rw [gmul_xtimes_one a hj, gmul_xtimes_left, one_gmul]

theorem gmul_assoc (a b c : Byte) : gmul (gmul a b) c = gmul a (gmul b c) := by
  induction c using byte_induction with
  | zero => simp only [gmul_zero]
  | xor c d hc hd => simp only [gmul_xor_right, hc, hd]
  | power j hj => rw [gmul_xtimes_one _ hj, gmul_xtimes_one _ hj, gmul_comm a (xtimes j b), gmul_xtimes_left, gmul_comm b]

theorem eq_of_gmul_eq_one {a b c : Byte} (hb : gmul a b = 1#8) (hc : gmul a c = 1#8) : c = b :=
  calc c = gmul c (gmul a b) := by rw [hb, gmul_one]
    _ = gmul (gmul a c) b := by rw [← gmul_assoc, gmul_comm c]
    _ = b := by rw [hc, one_gmul]

end Sys2Proof.Machine

/-! ### The substitution box and its inverse (R101, R102) -/

namespace Sys2Proof.Machine

/-- The inverse of `affine`. -/
def invAffine (b : Byte) : Byte := b.rotateRight 2 ^^^ b.rotateRight 5 ^^^ b.rotateRight 7 ^^^ 0x05#8

theorem affine_invAffine (b : Byte) : affine (invAffine b) = b := by
  revert b; decide

theorem getLsbD_affine (b : Byte) {i : Nat} (hi : i < 8) : (affine b).getLsbD i =
    (b.getLsbD i ^^ b.getLsbD ((i + 4) % 8) ^^ b.getLsbD ((i + 5) % 8) ^^ b.getLsbD ((i + 6) % 8) ^^
      b.getLsbD ((i + 7) % 8) ^^ (0x63#8).getLsbD i) := by
  simp only [affine, BitVec.getLsbD_xor, BitVec.getLsbD_rotateRight]
  interval_cases i <;> simp

/-- The table holds the inverses of the field: it is read back through `invAffine`, entry by entry. -/
theorem gmul_invAffine_sbox {x : Byte} (hx : x ≠ 0#8) : gmul x (invAffine (sbox x)) = 1#8 := by
  revert x; decide

@[simp] theorem invSbox_sbox (x : Byte) : invSbox (sbox x) = x := by
  revert x; decide

@[simp] theorem sbox_invSbox (x : Byte) : sbox (invSbox x) = x := by
  revert x; decide

theorem sbox_injective : Function.Injective sbox := Function.LeftInverse.injective invSbox_sbox

theorem sbox_ne_self_or_complement (x : Byte) : sbox x ≠ x ∧ sbox x ≠ x ^^^ 0xff#8 := by
  revert x; decide

/-- Settles O22: the field laws from `byte_induction`, the inverse of a byte read off SBOX. -/
theorem gmulIsTheFieldProduct : Obligations.GmulIsTheFieldProduct := by
  refine ⟨toNat_xtime, fun a j hj => ?power, gmul_xor_right, gmul_comm, gmul_assoc, fun a => ⟨gmul_one a, gmul_zero a⟩,
    fun a ha => ?inverse, by decide, by decide⟩
  case power => rw [← xtimes_one hj, gmul_xtimes_one a hj, xtimes_eq_iterate]
  case inverse =>
    have hinv := gmul_invAffine_sbox ha
    exact ⟨invAffine (sbox a), hinv, fun _ => eq_of_gmul_eq_one hinv⟩

/-- Settles O19: the inverse that the entry for `x` stands for is `invAffine (sbox x)`. -/
theorem sboxIsTheAffineInverse : Obligations.SboxIsTheAffineInverse :=
  ⟨fun b _ => getLsbD_affine b, by decide, by decide,
    fun _ hx => ⟨_, gmul_invAffine_sbox hx, (affine_invAffine _).symm⟩, fun _ _ h => sbox_injective h,
    sbox_ne_self_or_complement, by decide⟩

/-- Settles O20. -/
theorem invSboxInvertsSbox : Obligations.InvSboxInvertsSbox :=
  ⟨invSbox_sbox, sbox_invSbox, by decide, by decide, by decide⟩

end Sys2Proof.Machine

/-! ### The multiplication tables and RCON (R103, R105)

Each table is compared with `gmul` entry by entry. The identities among the tables are then sums of their factors. -/

namespace Sys2Proof.Machine

theorem mul2_eq_gmul (x : Byte) : mul2 x = gmul x 2#8 := by
  revert x; decide

theorem mul3_eq_gmul (x : Byte) : mul3 x = gmul x 3#8 := by
  revert x; decide

theorem mul9_eq_gmul (x : Byte) : mul9 x = gmul x 9#8 := by
  revert x; decide

theorem mul11_eq_gmul (x : Byte) : mul11 x = gmul x 11#8 := by
  revert x; decide

theorem mul13_eq_gmul (x : Byte) : mul13 x = gmul x 13#8 := by
  revert x; decide

theorem mul14_eq_gmul (x : Byte) : mul14 x = gmul x 14#8 := by
  revert x; decide

theorem gmul_two (x : Byte) : gmul x 2#8 = xtime x := gmul_xtimes_one x (j := 1) (by decide)

theorem gmul_four (x : Byte) : gmul x 4#8 = xtime (xtime x) := gmul_xtimes_one x (j := 2) (by decide)

theorem gmul_eight (x : Byte) : gmul x 8#8 = xtime (xtime (xtime x)) := gmul_xtimes_one x (j := 3) (by decide)

/-- Settles O21. -/
theorem mulTablesAreFieldProducts : Obligations.MulTablesAreFieldProducts := by
  intro x
  have h3 : gmul x 3#8 = gmul x 2#8 ^^^ gmul x 1#8 := gmul_xor_right x 2#8 1#8
  have h9 : gmul x 9#8 = gmul x 8#8 ^^^ gmul x 1#8 := gmul_xor_right x 8#8 1#8
  have h11 : gmul x 11#8 = gmul x 9#8 ^^^ gmul x 2#8 := gmul_xor_right x 9#8 2#8
  have h13 : gmul x 13#8 = gmul x 9#8 ^^^ gmul x 4#8 := gmul_xor_right x 9#8 4#8
  have h14 : gmul x 14#8 = gmul x 13#8 ^^^ gmul x 3#8 := gmul_xor_right x 13#8 3#8
  rw [gmul_one] at h3 h9
  rw [← gmul_eight, ← gmul_four, ← gmul_two, mul2_eq_gmul, mul3_eq_gmul, mul9_eq_gmul, mul11_eq_gmul, mul13_eq_gmul,
    mul14_eq_gmul]
  exact ⟨rfl, rfl, rfl, rfl, rfl, rfl, rfl, h3, h9, h11, h13, h14⟩

/-- Settles O23, the ten entries evaluated. -/
theorem rconDoublesInTheField : Obligations.RconDoublesInTheField :=
  ⟨by decide, by decide, by decide⟩

end Sys2Proof.Machine

/-! ### The round steps on a block (R120 to R125) -/

namespace Sys2Proof.Machine

open Sys2Proof.Claims

/-! #### SubBytes -/

theorem byteAt_subBytes (b : Block) {i : Nat} (hi : i < 16) : byteAt (subBytes b) i = sbox (byteAt b i) :=
  byteAt_blockBuild _ hi

theorem byteAt_invSubBytes (b : Block) {i : Nat} (hi : i < 16) : byteAt (invSubBytes b) i = invSbox (byteAt b i) :=
  byteAt_blockBuild _ hi

@[simp] theorem invSubBytes_subBytes (b : Block) : invSubBytes (subBytes b) = b :=
  block_ext fun i hi => by rw [byteAt_invSubBytes _ hi, byteAt_subBytes _ hi, invSbox_sbox]

@[simp] theorem subBytes_invSubBytes (b : Block) : subBytes (invSubBytes b) = b :=
  block_ext fun i hi => by rw [byteAt_subBytes _ hi, byteAt_invSubBytes _ hi, sbox_invSbox]

/-! #### ShiftRows: a rotation of each row, and the same as a permutation of the bytes -/

section ShiftRows
variable (b : Block) {r c : Nat} (hr : r < 4) (hc : c < 4)
include hr hc

theorem entry_shiftRows : entry (shiftRows b) r c = entry b r ((c + r) % 4) := entry_blockOfMatrix _ hr hc

theorem entry_invShiftRows : entry (invShiftRows b) r c = entry b r ((c + 4 - r) % 4) := entry_blockOfMatrix _ hr hc

end ShiftRows

@[simp] theorem invShiftRows_shiftRows (b : Block) : invShiftRows (shiftRows b) = b := by
  refine matrix_ext fun r c hr hc => ?_
  have hback : ((c + 4 - r) % 4 + r) % 4 = c := by omega
  rw [entry_invShiftRows _ hr hc, entry_shiftRows _ hr (Nat.mod_lt _ (by decide)), hback]

@[simp] theorem shiftRows_invShiftRows (b : Block) : shiftRows (invShiftRows b) = b := by
  refine matrix_ext fun r c hr hc => ?_
  have hback : ((c + r) % 4 + 4 - r) % 4 = c := by omega
  rw [entry_shiftRows _ hr hc, entry_invShiftRows _ hr (Nat.mod_lt _ (by decide)), hback]

/-- The list of R122 is the rotation of row `i % 4` to the left. -/
theorem shiftSource_getD {i : Nat} (hi : i < 16) :
    shiftSource.getD i 0 = i % 4 + 4 * ((i / 4 + i % 4) % 4) ∧ shiftSource.getD i 0 < 16 := by
  revert i; decide

/-- The list of R123 is the rotation of row `i % 4` to the right. -/
theorem invShiftSource_getD {i : Nat} (hi : i < 16) :
    invShiftSource.getD i 0 = i % 4 + 4 * ((i / 4 + 4 - i % 4) % 4) ∧ invShiftSource.getD i 0 < 16 := by
  revert i; decide

theorem byteAt_shiftRows (b : Block) {i : Nat} (hi : i < 16) :
    byteAt (shiftRows b) i = byteAt b (shiftSource.getD i 0) := by
  rw [shiftRows, byteAt_blockOfMatrix _ hi, entry, (shiftSource_getD hi).1]

theorem byteAt_invShiftRows (b : Block) {i : Nat} (hi : i < 16) :
    byteAt (invShiftRows b) i = byteAt b (invShiftSource.getD i 0) := by
  rw [invShiftRows, byteAt_blockOfMatrix _ hi, entry, (invShiftSource_getD hi).1]

/-! #### MixColumns: a circulant matrix times each column

The product of two circulant matrices is read off the columns of the second: the first, applied to a sum of multiples of
columns, is the sum of the multiples of what it makes of each. -/

/-- Column `m` of the matrix whose row `j` is `coef` rotated right by `j`. -/
def circulantColumn (coef : List Byte) (m k : Nat) : Byte := coef.getD ((m + 4 - k) % 4) 0#8

theorem circulantRow_eq_sum (coef : List Byte) (col : Nat → Byte) (r : Nat) :
    circulantRow coef col r =
      gmul (col 0) (circulantColumn coef 0 r) ^^^ gmul (col 1) (circulantColumn coef 1 r) ^^^
        gmul (col 2) (circulantColumn coef 2 r) ^^^ gmul (col 3) (circulantColumn coef 3 r) := by
  simp [circulantRow, circulantColumn, List.range_succ]

theorem circulantRow_xor (coef : List Byte) (p q : Nat → Byte) (r : Nat) :
    circulantRow coef (fun k => p k ^^^ q k) r = circulantRow coef p r ^^^ circulantRow coef q r := by
  simp only [circulantRow_eq_sum, gmul_xor_left]
  ac_rfl

theorem circulantRow_gmul (coef : List Byte) (a : Byte) (p : Nat → Byte) (r : Nat) :
    circulantRow coef (fun k => gmul a (p k)) r = gmul a (circulantRow coef p r) := by
  simp only [circulantRow_eq_sum, gmul_xor_right, gmul_assoc]

/-- The identity matrix times a column. -/
theorem sum_gmul_unit (col : Nat → Byte) {r : Nat} (hr : r < 4) :
    gmul (col 0) (if 0 = r then 1#8 else 0#8) ^^^ gmul (col 1) (if 1 = r then 1#8 else 0#8) ^^^
      gmul (col 2) (if 2 = r then 1#8 else 0#8) ^^^ gmul (col 3) (if 3 = r then 1#8 else 0#8) = col r := by
  interval_cases r <;> simp

/-- A circulant matrix undoes another when it takes the columns of the other to the unit columns. -/
theorem circulantRow_cancel {coef coef' : List Byte}
    (h : ∀ r, r < 4 → ∀ m, m < 4 → circulantRow coef' (circulantColumn coef m) r = if m = r then 1#8 else 0#8)
    (col : Nat → Byte) {r : Nat} (hr : r < 4) : circulantRow coef' (circulantRow coef col) r = col r := by
  have hrows : circulantRow coef col = fun k => _ := funext (circulantRow_eq_sum coef col)
  have hunit : ∀ m, m < 4 → circulantRow coef' (fun k => gmul (col m) (circulantColumn coef m k)) r =
      gmul (col m) (if m = r then 1#8 else 0#8) := fun m hm => by
    rw [circulantRow_gmul, ← h r hr m hm]
  rw [hrows, circulantRow_xor, circulantRow_xor, circulantRow_xor, hunit 0 (by decide), hunit 1 (by decide),
    hunit 2 (by decide), hunit 3 (by decide), sum_gmul_unit col hr]

/-- A row of a matrix looks at the four bytes of the column alone. -/
theorem circulantRow_congr (coef : List Byte) {p q : Nat → Byte} (h : ∀ k, k < 4 → p k = q k) (r : Nat) :
    circulantRow coef p r = circulantRow coef q r := by
  rw [circulantRow_eq_sum, circulantRow_eq_sum, h 0 (by decide), h 1 (by decide), h 2 (by decide), h 3 (by decide)]

/-- Row 0 of the matrix of R124. -/
def mixCoef : List Byte := [2#8, 3#8, 1#8, 1#8]

/-- Row 0 of the matrix of R125. -/
def invMixCoef : List Byte := [14#8, 11#8, 13#8, 9#8]

theorem mixRow_eq_circulantRow (col : Nat → Byte) {r : Nat} (hr : r < 4) :
    mixRow r (col 0) (col 1) (col 2) (col 3) = circulantRow mixCoef col r := by
  rw [circulantRow_eq_sum]
  interval_cases r <;> simp [mixRow, circulantColumn, mixCoef, mul2_eq_gmul, mul3_eq_gmul]

theorem invMixRow_eq_circulantRow (col : Nat → Byte) {r : Nat} (hr : r < 4) :
    invMixRow r (col 0) (col 1) (col 2) (col 3) = circulantRow invMixCoef col r := by
  rw [circulantRow_eq_sum]
  interval_cases r <;>
    simp [invMixRow, circulantColumn, invMixCoef, mul9_eq_gmul, mul11_eq_gmul, mul13_eq_gmul, mul14_eq_gmul]

/-- The matrix of R125 takes the columns of the matrix of R124 to the unit columns. -/
theorem invMix_mixColumn_eq_unit : ∀ r, r < 4 → ∀ m, m < 4 →
    circulantRow invMixCoef (circulantColumn mixCoef m) r = if m = r then 1#8 else 0#8 := by
  decide

/-- The matrix of R124 takes the columns of the matrix of R125 to the unit columns. -/
theorem mix_invMixColumn_eq_unit : ∀ r, r < 4 → ∀ m, m < 4 →
    circulantRow mixCoef (circulantColumn invMixCoef m) r = if m = r then 1#8 else 0#8 := by
  decide

section MixColumns
variable (b : Block) {r c : Nat} (hr : r < 4) (hc : c < 4)
include hr hc

theorem entry_mixColumns : entry (mixColumns b) r c = circulantRow mixCoef (entry b · c) r := by
  rw [mixColumns, entry_blockOfMatrix _ hr hc, ← mixRow_eq_circulantRow _ hr]

theorem entry_invMixColumns : entry (invMixColumns b) r c = circulantRow invMixCoef (entry b · c) r := by
  rw [invMixColumns, entry_blockOfMatrix _ hr hc, ← invMixRow_eq_circulantRow _ hr]

end MixColumns

@[simp] theorem invMixColumns_mixColumns (b : Block) : invMixColumns (mixColumns b) = b := by
  refine matrix_ext fun r c hr hc => ?_
  rw [entry_invMixColumns _ hr hc, circulantRow_congr _ (fun k hk => entry_mixColumns b hk hc) r,
    circulantRow_cancel invMix_mixColumn_eq_unit _ hr]

@[simp] theorem mixColumns_invMixColumns (b : Block) : mixColumns (invMixColumns b) = b := by
  refine matrix_ext fun r c hr hc => ?_
  rw [entry_mixColumns _ hr hc, circulantRow_congr _ (fun k hk => entry_invMixColumns b hk hc) r,
    circulantRow_cancel mix_invMixColumn_eq_unit _ hr]

/-- Settles O27. -/
theorem roundStepsAreMutuallyInverse : Obligations.RoundStepsAreMutuallyInverse := fun b =>
  ⟨invSubBytes_subBytes b, subBytes_invSubBytes b, invShiftRows_shiftRows b, shiftRows_invShiftRows b,
    invMixColumns_mixColumns b, mixColumns_invMixColumns b⟩

end Sys2Proof.Machine

/-! ### The round commands write STATE and nothing else (R120 to R126) -/

namespace Sys2Proof.Machine

open Sys2Proof.Claims

/-- A command that puts a block in STATE, whatever it adds to the record of UnwrittenRead: STATE reads as the block,
and nothing else is written. -/
theorem completes_putState {s : State} {u : Bool} {b : Block} {r : Result}
    (h : r = .next (State.putState b { s with unwrittenRead := u })) :
    ∃ t, r = .next t ∧ (∀ i, i < 16 → t.readByte .state i = byteAt b i) ∧ OnlyState s t := by
  refine ⟨_, h, fun i hi => State.readByte_putState_state _ b hi, rfl, rfl, fun i hi => flagAt_replicate true hi,
    fun a i ha => ?_⟩
  rw [State.readByte_putState_other _ a i b ha]
  cases a <;> rfl

theorem roundCommand_completes (f : Block → Block) {s : State} (hf : s.faulted = false) :
    ∃ t, roundCommand f s = .next t ∧ (∀ i, i < 16 → t.readByte .state i = byteAt (f s.stateOperand) i) ∧
      OnlyState s t :=
  completes_putState (roundCommand_live f hf)

theorem execAddrk_completes {r : Nat} {s : State} (hf : s.faulted = false) (hk : s.keyValid = true) (hr : r ≤ s.nr) :
    ∃ t, execAddrk r s = .next t ∧
      (∀ i, i < 16 → t.readByte .state i = byteAt (xorBlock s.stateOperand (s.roundKey r)) i) ∧ OnlyState s t :=
  completes_putState (execAddrk_live hf hk hr)

/-- Settles O26. -/
theorem mixColumnsCommandsMultiplyColumns : Obligations.MixColumnsCommandsMultiplyColumns := by
  intro s hf
  have hcol : ∀ (coef : List Byte) (r c : Nat), c < 4 → circulantRow coef (entry s.stateOperand · c) r =
      circulantRow coef (fun k => s.readByte .state (k + 4 * c)) r := fun coef r c hc =>
    circulantRow_congr coef (fun k hk => s.byteAt_stateOperand (by omega)) r
  obtain ⟨t, ht, hbytes, honly⟩ := roundCommand_completes mixColumns hf
  obtain ⟨u, hu, hbytes', honly'⟩ := roundCommand_completes invMixColumns hf
  refine ⟨⟨t, ht, fun r c hr hc => ?_, honly⟩, ⟨u, hu, fun r c hr hc => ?_, honly'⟩⟩
  · exact (hbytes _ (by omega)).trans ((entry_mixColumns _ hr hc).trans (hcol mixCoef r c hc))
  · exact (hbytes' _ (by omega)).trans ((entry_invMixColumns _ hr hc).trans (hcol invMixCoef r c hc))

/-- Settles O24. -/
theorem subBytesCommandsSubstituteEachByte : Obligations.SubBytesCommandsSubstituteEachByte := by
  intro s hf
  obtain ⟨t, ht, hbytes, honly⟩ := roundCommand_completes subBytes hf
  obtain ⟨u, hu, hbytes', honly'⟩ := roundCommand_completes invSubBytes hf
  refine ⟨⟨t, ht, fun i hi => ?_, honly⟩, ⟨u, hu, fun i hi => ?_, honly'⟩⟩
  · rw [hbytes i hi, byteAt_subBytes _ hi, State.byteAt_stateOperand s hi]
  · rw [hbytes' i hi, byteAt_invSubBytes _ hi, State.byteAt_stateOperand s hi]

/-- Settles O25. -/
theorem shiftRowsCommandsPermuteBytes : Obligations.ShiftRowsCommandsPermuteBytes := by
  intro s hf
  obtain ⟨t, ht, hbytes, honly⟩ := roundCommand_completes shiftRows hf
  obtain ⟨u, hu, hbytes', honly'⟩ := roundCommand_completes invShiftRows hf
  refine ⟨⟨t, ht, fun i hi => ?_, honly⟩, ⟨u, hu, fun i hi => ?_, honly'⟩⟩
  · rw [hbytes i hi, byteAt_shiftRows _ hi, State.byteAt_stateOperand s (shiftSource_getD hi).2]
  · rw [hbytes' i hi, byteAt_invShiftRows _ hi, State.byteAt_stateOperand s (invShiftSource_getD hi).2]

/-- Settles O28. -/
theorem addrkAddsTheRoundKey : Obligations.AddrkAddsTheRoundKey := by
  intro s r hf hk hr
  obtain ⟨t, ht, hbytes, honly⟩ := execAddrk_completes hf hk hr
  refine ⟨t, ht, fun i hi => ?_, honly⟩
  rw [hbytes i hi, byteAt_xorBlock _ _ hi, State.byteAt_stateOperand s hi, State.byteAt_roundKey s r hi]

/-- The checks of ADDRK look at STATUS alone. -/
theorem State.flags_congr {s t : State} (h : t.status = s.status) :
    t.faulted = s.faulted ∧ t.keyValid = s.keyValid ∧ t.nr = s.nr := by
  simp only [State.faulted, State.keyValid, State.nr, h, and_self]

/-- Settles O29: the first ADDRK leaves what the second needs, the round key among it, and adding it twice cancels. -/
theorem addrkTwiceRestoresState : Obligations.AddrkTwiceRestoresState := by
  intro s r hf hk hr
  obtain ⟨t, ht, hbytes, _, hstatus, _, hkept⟩ := addrkAddsTheRoundKey s r hf hk hr
  obtain ⟨hft, hkt, hnr⟩ := State.flags_congr hstatus
  obtain ⟨u, hu, hbytes', _⟩ := addrkAddsTheRoundKey t r (hft.trans hf) (hkt.trans hk) (hnr.symm ▸ hr)
  refine ⟨t, u, ht, hu, fun i hi => ?_⟩
  rw [hbytes' i hi, hbytes i hi, hkept .rk _ (by decide), BitVec.xor_assoc, BitVec.xor_self, BitVec.xor_zero]

end Sys2Proof.Machine

/-! ### The key schedule and KEYEXP (R140 to R143) -/

namespace Sys2Proof.Machine

open Sys2Proof.Claims

/-- Settles O30. -/
theorem keyLengthSelectsTheConfiguration : Obligations.KeyLengthSelectsTheConfiguration := by
  intro n cfg
  constructor
  · intro h
    obtain ⟨hn, hbytes, hnk, hnr⟩ := keyConfig_some h
    exact ⟨hn, by rw [← hnr, ← hnk, ← hbytes]⟩
  · rintro ⟨rfl | rfl | rfl, rfl⟩ <;> rfl

/-! #### The expansion as words and as bytes -/

theorem wordAt_flatMap_bytes {ws : List KeyWord} {i : Nat} (hi : i < ws.length) :
    wordAt (ws.flatMap KeyWord.bytes) i = ws.getD i .zero := by
  have hbyte := fun k hk => getD_flatMap_bytes ws i k hi hk
  have hfirst : (ws.flatMap KeyWord.bytes).getD (4 * i) 0#8 = ws[i].b0 := hbyte 0 (by decide)
  rw [wordAt, List.getD_eq_getElem _ _ hi, hfirst, hbyte 1 (by decide), hbyte 2 (by decide), hbyte 3 (by decide)]
  rfl

/-- Byte `i` of a sequence is byte `i % 4` of its word `i / 4`. -/
theorem getD_eq_getD_wordAt (l : List Byte) (i : Nat) : l.getD i 0#8 = (wordAt l (i / 4)).bytes.getD (i % 4) 0#8 := by
  have hk : i % 4 < 4 := Nat.mod_lt _ (by decide)
  conv_lhs => rw [← Nat.div_add_mod i 4]
  generalize i % 4 = k at hk
  interval_cases k <;> rfl

section Expansion
variable (key : List Byte) {nk nr i : Nat} (hle : nk ≤ 4 * (nr + 1))
include hle

/-- The bytes of the expansion, read as words, are the words of the schedule. -/
theorem wordAt_keyExpansion (hi : i < 4 * (nr + 1)) :
    wordAt (keyExpansion key nk nr) i = (scheduleWords key nk nr).getD i .zero :=
  wordAt_flatMap_bytes (by rwa [length_scheduleWords key nk nr hle])

/-- The expansion begins with the key (R143). -/
theorem keyExpansion_first (hi : i < 4 * nk) : (keyExpansion key nk nr).getD i 0#8 = key.getD i 0#8 := by
  have hword : i / 4 < nk := by omega
  rw [getD_eq_getD_wordAt, wordAt_keyExpansion key hle (by omega), scheduleWords_first key nk nr _ hword,
    ← getD_eq_getD_wordAt]

/-- Every later word of the expansion is `temp XOR w[i-Nk]` (R141). -/
theorem wordAt_keyExpansion_next (hnk : 0 < nk) (h1 : nk ≤ i) (h2 : i < 4 * (nr + 1)) :
    wordAt (keyExpansion key nk nr) i =
      (scheduleTemp nk i (wordAt (keyExpansion key nk nr) (i - 1))).xor (wordAt (keyExpansion key nk nr) (i - nk)) := by
  rw [wordAt_keyExpansion key hle h2, wordAt_keyExpansion key hle (by omega), wordAt_keyExpansion key hle (by omega),
    scheduleWords_next key nk nr hnk i h1 h2]

end Expansion

/-- The recurrence with `temp` is the recurrence with its three branches written out. -/
theorem scheduleStep_of_eq_temp_xor {nk i : Nat} {w : Nat → KeyWord}
    (h : w i = (scheduleTemp nk i (w (i - 1))).xor (w (i - nk))) : ScheduleStep nk w i := by
  refine ⟨fun h0 => ?_, fun h0 h6 h4 => ?_, fun h0 hother => ?_⟩
  · rw [h, scheduleTemp, if_pos h0]; rfl
  · rw [h, scheduleTemp, if_neg h0, if_pos ⟨h6, h4⟩]; rfl
  · rw [h, scheduleTemp, if_neg h0, if_neg hother]; rfl

/-! #### What KEYEXP leaves in RK, in STATUS and elsewhere -/

/-- With a legal KEYLEN, KEYEXP on a live core loads the expansion of KEY[0..KEYLEN) (R142). -/
theorem execKeyexp_live {s : State} {n : Nat} (hf : s.faulted = false) (hn : s.keylen.toNat = n)
    (hlegal : n = 16 ∨ n = 24 ∨ n = 32) :
    execKeyexp s = .next ((s.noteRead .key 0 n).putSchedule ⟨n, n / 4, n / 4 + 6⟩
      (keyExpansion (s.keyOperand n) (n / 4) (n / 4 + 6))) := by
  rw [execKeyexp, command_live hf, hn, (keyLengthSelectsTheConfiguration n _).mpr ⟨hlegal, rfl⟩]

theorem State.getD_keyOperand (s : State) {n i : Nat} (hi : i < n) : (s.keyOperand n).getD i 0#8 = s.readByte .key i := by
  simp [State.keyOperand, List.getD, hi]

section PutSchedule
variable (s : State) (cfg : KeyConfig) (l : List Byte)

theorem State.written_putSchedule_rk (i : Nat) : (s.putSchedule cfg l).written .rk i = decide (i < l.length) := by
  rw [State.written, State.putSchedule_rkWritten]

theorem rkWord_putSchedule {i : Nat} (hi : 4 * i + 3 < l.length) (hl : l.length ≤ 240) :
    rkWord (s.putSchedule cfg l) i = wordAt l i := by
  have hbyte : ∀ j, j ≤ 4 * i + 3 → (s.putSchedule cfg l).readByte .rk j = l.getD j 0#8 := fun j hj =>
    State.readByte_putSchedule_rk s cfg l (by omega) (by omega)
  rw [rkWord, hbyte _ (by omega), hbyte _ (by omega), hbyte _ (by omega), hbyte _ (by omega), wordAt]

/-- Loading a schedule writes RK and the fields KEY_VALID, NK, NR of STATUS, whatever the command adds to the record of
UnwrittenRead. -/
theorem onlySchedule_putSchedule (u : Bool) : OnlySchedule s (State.putSchedule cfg l { s with unwrittenRead := u }) := by
  refine ⟨rfl, rfl, rfl, State.faulted_putSchedule .., State.err_putSchedule .., statusOnKeyexp_reserved ..,
    fun a i ha => ?_⟩
  rw [State.readByte_putSchedule_other _ a i cfg l ha]
  cases a <;> rfl

end PutSchedule

/-- Settles O31: RK holds the expansion of KEY[0..n), whose words are the key and then the recurrence. -/
theorem keyexpLoadsTheSchedule : Obligations.KeyexpLoadsTheSchedule := by
  intro s n hf hn hlegal
  have hle : n / 4 ≤ 4 * (n / 4 + 6 + 1) := by omega
  have hlen := length_keyExpansion (s.keyOperand n) (n / 4) (n / 4 + 6) hle
  refine ⟨_, execKeyexp_live hf hn hlegal, State.keyValid_putSchedule .., State.nk_putSchedule _ _ (by dsimp only; omega),
    State.nr_putSchedule _ _ (by dsimp only; omega), fun i hi => ?_, fun i h1 h2 => scheduleStep_of_eq_temp_xor ?_,
    fun i => ?_, onlySchedule_putSchedule ..⟩
  · rw [State.readByte_putSchedule_rk _ _ _ (by omega) (by omega), keyExpansion_first _ hle (by omega),
      State.getD_keyOperand s hi]
  · rw [rkWord_putSchedule _ _ _ (by omega) (by omega), rkWord_putSchedule _ _ _ (by omega) (by omega),
      rkWord_putSchedule _ _ _ (by omega) (by omega), wordAt_keyExpansion_next _ hle (by omega) h1 h2]
  · rw [State.written_putSchedule_rk, hlen]

end Sys2Proof.Machine

/-! ### The block cipher, ENCBLK and DECBLK (R160 to R165) -/

namespace Sys2Proof.Machine

open Sys2Proof.Claims

/-! #### Cipher and InvCipher undo one another (R164) -/

section Invertible
variable (rk : Nat → Block)

@[simp] theorem decRound_encRound (r : Nat) (b : Block) : decRound rk r (encRound rk r b) = b := by
  rw [decRound, encRound, xorBlock_cancel, invMixColumns_mixColumns, invShiftRows_shiftRows, invSubBytes_subBytes]

@[simp] theorem encRound_decRound (r : Nat) (b : Block) : encRound rk r (decRound rk r b) = b := by
  rw [encRound, decRound, subBytes_invSubBytes, shiftRows_invShiftRows, mixColumns_invMixColumns, xorBlock_cancel]

@[simp] theorem decRounds_encRounds (n : Nat) (b : Block) : decRounds rk n (encRounds rk n b) = b := by
  induction n with
  | zero => rfl
  | succ n ih => rw [encRounds, decRounds, decRound_encRound, ih]

@[simp] theorem encRounds_decRounds (n : Nat) (b : Block) : encRounds rk n (decRounds rk n b) = b := by
  induction n generalizing b with
  | zero => rfl
  | succ n ih => rw [decRounds, encRounds, ih, encRound_decRound]

@[simp] theorem invCipher_cipher (nr : Nat) (b : Block) : invCipher rk nr (cipher rk nr b) = b := by
  rw [invCipher, cipher, xorBlock_cancel, invShiftRows_shiftRows, invSubBytes_subBytes, decRounds_encRounds,
    xorBlock_cancel]

@[simp] theorem cipher_invCipher (nr : Nat) (b : Block) : cipher rk nr (invCipher rk nr b) = b := by
  rw [cipher, invCipher, xorBlock_cancel, encRounds_decRounds, subBytes_invSubBytes, shiftRows_invShiftRows,
    xorBlock_cancel]

end Invertible

/-- Settles O36. -/
theorem blockCipherIsInvertible : Obligations.BlockCipherIsInvertible := fun rk nr b =>
  ⟨invCipher_cipher rk nr b, cipher_invCipher rk nr b⟩

/-! #### The recursions over the rounds are the loops of R160 and R161 -/

section Loops
variable (rk : Nat → Block)

theorem foldl_encRound (n : Nat) (b : Block) :
    (List.range' 1 n).foldl (fun b r => encRound rk r b) b = encRounds rk n b := by
  induction n with
  | zero => rfl
  | succ n ih => rw [List.range'_1_concat, List.foldl_concat, ih, Nat.add_comm 1 n, encRounds]

theorem foldl_decRound (n : Nat) (b : Block) :
    (List.range' 1 n).reverse.foldl (fun b r => decRound rk r b) b = decRounds rk n b := by
  induction n generalizing b with
  | zero => rfl
  | succ n ih => rw [List.range'_1_concat, List.reverse_concat, List.foldl_cons, ih, Nat.add_comm 1 n, decRounds]

theorem cipherLoop_eq_cipher (nr : Nat) (b : Block) : cipherLoop rk nr b = cipher rk nr b := by
  rw [cipher, ← foldl_encRound]
  rfl

theorem invCipherLoop_eq_invCipher (nr : Nat) (b : Block) : invCipherLoop rk nr b = invCipher rk nr b := by
  rw [invCipher, ← foldl_decRound]
  rfl

end Loops

/-! #### ENCBLK and DECBLK write the cipher's result to STATE and nothing else (R162, R163) -/

theorem blockAt_state (s : State) : blockAt s .state 0 = s.stateOperand := by
  simp only [blockAt, Nat.zero_add, State.stateOperand]

theorem State.encryptBlock_eq_cipherLoop (s : State) :
    s.encryptBlock s.stateOperand = cipherLoop (fun r => blockAt s .rk (16 * r)) s.nr (blockAt s .state 0) := by
  rw [cipherLoop_eq_cipher, blockAt_state]
  rfl

theorem State.decryptBlock_eq_invCipherLoop (s : State) :
    s.decryptBlock s.stateOperand = invCipherLoop (fun r => blockAt s .rk (16 * r)) s.nr (blockAt s .state 0) := by
  rw [invCipherLoop_eq_invCipher, blockAt_state]
  rfl

theorem blockCommand_completes (w : Word) (f : Block → Block) {s : State} (hf : s.faulted = false)
    (hk : s.keyValid = true) :
    ∃ t, blockCommand w f s = .next t ∧ (∀ i, i < 16 → t.readByte .state i = byteAt (f s.stateOperand) i) ∧
      OnlyState s t :=
  completes_putState (blockCommand_live w f hf hk)

/-- Settles O34. -/
theorem encblkIsTheCipher : Obligations.EncblkIsTheCipher := fun s hf hk =>
  s.encryptBlock_eq_cipherLoop ▸ blockCommand_completes (encode .encblk) s.encryptBlock hf hk

/-- Settles O35. -/
theorem decblkIsTheInverseCipher : Obligations.DecblkIsTheInverseCipher := fun s hf hk =>
  s.decryptBlock_eq_invCipherLoop ▸ blockCommand_completes (encode .decblk) s.decryptBlock hf hk

/-! #### The two commands undo one another (R163) -/

/-- The block cipher of a state depends on its round keys and STATUS alone. -/
theorem State.blockCipher_congr {s t : State} (hrk : t.roundKey = s.roundKey) (hstatus : t.status = s.status) :
    t.encryptBlock = s.encryptBlock ∧ t.decryptBlock = s.decryptBlock := by
  obtain ⟨_, _, hnr⟩ := State.flags_congr hstatus
  exact ⟨funext fun b => by rw [State.encryptBlock, hrk, hnr, ← State.encryptBlock],
    funext fun b => by rw [State.decryptBlock, hrk, hnr, ← State.decryptBlock]⟩

theorem State.roundKey_of_bytesKept {s t : State} (h : BytesKept .state s t) : t.roundKey = s.roundKey := by
  funext r
  exact block_ext fun i hi => by
    rw [State.byteAt_roundKey t r hi, State.byteAt_roundKey s r hi, h .rk _ (by decide)]

/-- Two block commands in a row, the second with a function `g` of its own state that undoes the first's `f` and does
not depend on STATE, restore STATE. -/
theorem blockCommand_pair_restores (w w' : Word) {f : Block → Block} {g : State → Block → Block} {s : State}
    (hf : s.faulted = false) (hk : s.keyValid = true)
    (hg : ∀ t : State, t.roundKey = s.roundKey → t.status = s.status → g t = g s) (hinv : ∀ b, g s (f b) = b) :
    ∃ t u, blockCommand w f s = .next t ∧ blockCommand w' (g t) t = .next u ∧
      ∀ i, i < 16 → u.readByte .state i = s.readByte .state i := by
  obtain ⟨t, ht, hbytes, _, hstatus, _, hkept⟩ := blockCommand_completes w f hf hk
  obtain ⟨hft, hkt, _⟩ := State.flags_congr hstatus
  obtain ⟨u, hu, hbytes', _⟩ := blockCommand_completes w' (g t) (hft.trans hf) (hkt.trans hk)
  have hblock : t.stateOperand = f s.stateOperand :=
    block_ext fun i hi => (t.byteAt_stateOperand hi).trans (hbytes i hi)
  refine ⟨t, u, ht, hu, fun i hi => ?_⟩
  rw [hbytes' i hi, hblock, hg t (State.roundKey_of_bytesKept hkept) hstatus, hinv, s.byteAt_stateOperand hi]

/-- Settles O37. -/
theorem decblkUndoesEncblk : Obligations.DecblkUndoesEncblk := fun s hf hk =>
  ⟨blockCommand_pair_restores (encode .encblk) (encode .decblk) (g := State.decryptBlock) hf hk
      (fun _ hrk hstatus => (State.blockCipher_congr hrk hstatus).2) (invCipher_cipher s.roundKey s.nr),
    blockCommand_pair_restores (encode .decblk) (encode .encblk) (g := State.encryptBlock) hf hk
      (fun _ hrk hstatus => (State.blockCipher_congr hrk hstatus).1) (cipher_invCipher s.roundKey s.nr)⟩

end Sys2Proof.Machine

/-! ### Padding, PAD and UNPAD (R180 to R186) -/

namespace Sys2Proof.Machine

open Sys2Proof.Claims

/-! #### Both removals drop the last `p` bytes; the strict one does so under the check of R183 -/

theorem claimedPad_eq_lastByte (d : List Byte) : claimedPad d = lastByte d := rfl

theorem lastByte_eq_getD (d : List Byte) : lastByte d = (d.getD (d.length - 1) 0#8).toNat := by
  rw [lastByte, List.getLastD_eq_getLast?, List.getLast?_eq_getElem?, List.getD_eq_getElem?_getD]

/-- Where `p` exceeds the length nothing is taken, so R182's two cases are one. -/
theorem unpadPermissive_eq_take (d : List Byte) : unpadPermissive d = d.take (d.length - lastByte d) := by
  rw [unpadPermissive, claimedPad_eq_lastByte]
  split
  · rw [Nat.sub_eq_zero_of_le (by omega), List.take_zero]
  · rfl

theorem length_unpadPermissive (d : List Byte) : (unpadPermissive d).length = d.length - lastByte d := by
  rw [unpadPermissive_eq_take, List.length_take, Nat.min_eq_left (Nat.sub_le _ _)]

/-- The model's test of the bytes from index `k` on, index by index. -/
theorem all_drop_toNat_eq_iff (d : List Byte) (k p : Nat) :
    ((d.drop k).all fun b => b.toNat == p) = true ↔ ∀ j, k ≤ j → j < d.length → (d.getD j 0#8).toNat = p := by
  simp only [List.all_eq_true, List.mem_drop_iff_getElem, beq_iff_eq]
  constructor
  · intro h j hk hj
    rw [List.getD_eq_getElem _ _ hj]
    exact h _ ⟨j - k, by omega, by simp only [Nat.add_sub_cancel' hk]⟩
  · rintro h _ ⟨j, hj, rfl⟩
    have hbyte := h (k + j) (Nat.le_add_right k j) (by omega)
    rwa [List.getD_eq_getElem _ _ (by omega)] at hbyte

/-- The check of R183 as the model tests it: the range of `p`, then the last `p` bytes. -/
theorem strictOk_iff_tests (d : List Byte) (pmax : Nat) :
    StrictOk pmax d ↔ ¬(claimedPad d = 0 ∨ pmax < claimedPad d ∨ d.length < claimedPad d) ∧
      ((d.drop (d.length - claimedPad d)).all fun b => b.toNat == claimedPad d) = true := by
  simp only [StrictOk, all_drop_toNat_eq_iff, claimedPad_eq_lastByte, not_or, Nat.not_lt, and_assoc,
    ← Nat.one_le_iff_ne_zero]

/-- Strict removal is permissive removal under the check of R183. -/
theorem unpadStrict_eq_some_iff {d u : List Byte} {pmax : Nat} :
    unpadStrict d pmax = some u ↔ StrictOk pmax d ∧ u = unpadPermissive d := by
  rw [strictOk_iff_tests, unpadPermissive_eq_take, unpadStrict, claimedPad_eq_lastByte]
  split
  · next hrange => simp only [hrange, not_true_eq_false, false_and, reduceCtorEq]
  · next hrange =>
    split
    · next hall => simp only [hrange, hall, not_false_eq_true, true_and, Option.some.injEq, eq_comm (a := u)]
    · next hall => simp only [hall, and_false, false_and, reduceCtorEq]

/-! #### The bytes of a padded buffer (R181) -/

theorem getD_padBytes_data (d : List Byte) (bs : Nat) {i : Nat} (hi : i < d.length) :
    (padBytes d bs).getD i 0#8 = d.getD i 0#8 := by
  rw [padBytes, List.getD_append _ _ _ _ hi]

theorem toNat_getD_padBytes_pad (d : List Byte) {bs i : Nat} (hbs : bs ≤ 255) (hi : d.length ≤ i)
    (hi' : i < d.length + padCount d.length bs) : ((padBytes d bs).getD i 0#8).toNat = padCount d.length bs := by
  have hle := padCount_le d.length bs
  rw [padBytes, List.getD_append_right _ _ _ _ hi, List.getD_replicate _ (by omega), BitVec.toNat_ofNat,
    Nat.mod_eq_of_lt (by omega)]

theorem lastByte_padBytes (d : List Byte) {bs : Nat} (h1 : 1 ≤ bs) (hbs : bs ≤ 255) :
    lastByte (padBytes d bs) = padCount d.length bs := by
  have hpos := padCount_pos d.length h1
  rw [lastByte_eq_getD, length_padBytes]
  exact toNat_getD_padBytes_pad d hbs (by omega) (by omega)

theorem unpadPermissive_padBytes (d : List Byte) {bs : Nat} (h1 : 1 ≤ bs) (hbs : bs ≤ 255) :
    unpadPermissive (padBytes d bs) = d := by
  rw [unpadPermissive_eq_take, lastByte_padBytes d h1 hbs, length_padBytes, Nat.add_sub_cancel, padBytes,
    List.take_left]

theorem strictOk_padBytes (d : List Byte) {bs pmax : Nat} (h1 : 1 ≤ bs) (hbs : bs ≤ 255) (hp : bs ≤ pmax) :
    StrictOk pmax (padBytes d bs) := by
  have hle := padCount_le d.length bs
  rw [StrictOk, lastByte_padBytes d h1 hbs, length_padBytes, Nat.add_sub_cancel]
  exact ⟨padCount_pos _ h1, by omega, by omega, fun j hj hj' => toNat_getD_padBytes_pad d hbs hj hj'⟩

/-- Settles O42: what Pad appends passes the check of R183, and its last byte counts it. -/
theorem paddingRoundTrip : Obligations.PaddingRoundTrip := fun d _ _ h1 hbs hp =>
  ⟨unpadPermissive_padBytes d h1 hbs,
    unpadStrict_eq_some_iff.mpr ⟨strictOk_padBytes d h1 hbs hp, (unpadPermissive_padBytes d h1 hbs).symm⟩⟩

/-! #### What the strict check accepts is padded (92_eei_decisions.md D15) -/

/-- Data that passes the check ends in `p` bytes of value `p`, after what removal gives back. -/
theorem eq_append_replicate_of_strictOk {d : List Byte} {pmax : Nat} (h : StrictOk pmax d) :
    d = unpadPermissive d ++ List.replicate (lastByte d) (BitVec.ofNat 8 (lastByte d)) := by
  obtain ⟨_, _, hlen, htail⟩ := h
  have hdrop : d.drop (d.length - lastByte d) = List.replicate (lastByte d) (BitVec.ofNat 8 (lastByte d)) := by
    refine List.eq_replicate_iff.mpr ⟨by rw [List.length_drop]; omega, fun b hb => ?_⟩
    rw [← beq_iff_eq.mp (List.all_eq_true.mp ((all_drop_toNat_eq_iff d _ _).mpr htail) b hb), BitVec.ofNat_toNat,
      BitVec.setWidth_eq]
  rw [← hdrop, unpadPermissive_eq_take, List.take_append_drop]

/-- Settles O43: on whole blocks the `p` bytes removed are the pad count of the rest. -/
theorem strictRemovalAcceptsExactlyPaddedData : Obligations.StrictRemovalAcceptsExactlyPaddedData := by
  intro d u hd
  constructor
  · intro h
    obtain ⟨hok, rfl⟩ := unpadStrict_eq_some_iff.mp h
    have hcount : lastByte d = padCount (unpadPermissive d).length 16 := by
      obtain ⟨h1, h16, hlen, _⟩ := hok
      rw [length_unpadPermissive, padCount]
      omega
    rw [padBytes, ← hcount]
    exact eq_append_replicate_of_strictOk hok
  · rintro rfl
    exact (paddingRoundTrip u 16 16 (by decide) (by decide) (by decide)).2

/-! #### PAD and UNPAD put a result in OUT and write nothing else (R184, R185) -/

/-- The operand of a command that reads IN (R42). -/
theorem State.inOperand_of_inWritten {s : State} (h : InWritten s) : s.inOperand = .ok (inBytes s) :=
  s.inOperand_exists h

theorem length_inBytes (s : State) : (inBytes s).length = inLen s := by simp [inBytes]

theorem getD_inBytes (s : State) {i : Nat} (hi : i < inLen s) : (inBytes s).getD i 0#8 = s.readByte .inBuf i := by
  simp [inBytes, List.getD, hi]

/-- OUTLEN is the result's length and nothing but OUT and OUTLEN is written, whatever the record of UnwrittenRead. -/
theorem onlyOut_putResult {s : State} {l : List Byte} (hc : LegalCapacity s) (hl : l.length ≤ s.bufBytes) (u : Bool) :
    OnlyOut s (State.putResult l { s with unwrittenRead := u }) := by
  refine ⟨rfl, rfl, rfl, rfl, fun i => ?_, fun a i ha => ?_⟩
  · rw [State.written_putResult_out, State.toNat_outlen_putResult (s := { s with unwrittenRead := u }) hc hl]
  · rw [State.readByte_putResult_other _ a i l ha]
    cases a <;> rfl

theorem execPad_live {s : State} {bs : Nat} (hf : s.faulted = false) (hw : InWritten s) (h1 : 1 ≤ bs)
    (hroom : inLen s + padCount (inLen s) bs ≤ s.bufBytes) :
    execPad bs s = .next (s.putResult (padBytes (inBytes s) bs)) := by
  rw [inLen] at hroom
  rw [execPad, command_live hf, if_neg (by omega), if_neg (by omega), if_neg (by omega),
    State.inOperand_of_inWritten hw]

/-- Settles O40: OUT is the padded IN, byte by byte. -/
theorem padAppendsPkcs7 : Obligations.PadAppendsPkcs7 := by
  intro s bs hf hc h1 hbs hw hroom
  have hmul := padCount_multiple (inLen s) (bs := bs) h1
  have hlen : (padBytes (inBytes s) bs).length = inLen s + padCount (inLen s) bs := by
    rw [length_padBytes, length_inBytes]
  have hl : (padBytes (inBytes s) bs).length ≤ s.bufBytes := by omega
  have hout : (s.putResult (padBytes (inBytes s) bs)).outlen.toNat = inLen s + padCount (inLen s) bs :=
    (State.toNat_outlen_putResult hc hl).trans hlen
  refine ⟨_, execPad_live hf hw h1 (by omega), by omega, fun i hi => ?_, fun i hi hi' => ?_, hout,
    onlyOut_putResult hc hl s.unwrittenRead⟩
  · rw [State.readByte_putResult_out, if_pos (by omega),
      getD_padBytes_data _ _ (by rwa [length_inBytes]), getD_inBytes s hi]
  · rw [State.readByte_putResult_out, if_pos (by omega),
      toNat_getD_padBytes_pad _ hbs (by rwa [length_inBytes]) (by rw [length_inBytes]; omega), length_inBytes, padCount]

/-! #### Removal under CTRL.STRICT_PAD (R185) -/

theorem State.unpad_eq_some {s : State} {pmax : Nat} {q : List Byte} (h : s.strictPad = true → StrictOk pmax q) :
    s.unpad pmax q = some (unpadPermissive q) := by
  rw [State.unpad]
  split
  · next hs => exact unpadStrict_eq_some_iff.mpr ⟨h hs, rfl⟩
  · rfl

theorem State.unpad_eq_none {s : State} {pmax : Nat} {q : List Byte} (hs : s.strictPad = true)
    (h : ¬StrictOk pmax q) : s.unpad pmax q = none := by
  rw [State.unpad, if_pos hs, Option.eq_none_iff_forall_ne_some]
  exact fun u hu => h (unpadStrict_eq_some_iff.mp hu).1

/-- Fault entry writes the record and nothing else (R231). -/
theorem recorded_raise (e : ErrCode) (w : Word) (s : State) : Recorded e w s (s.raise e w) :=
  ⟨rfl, State.faulted_raise e w s, State.err_raise e w s, State.keyValid_raise e w s, State.nk_raise e w s,
    State.nr_raise e w s, statusOnFault_reserved e s.status, fun a i => State.readByte_raise s a i e w⟩

theorem outIsUnpadded_putResult {s : State} {q : List Byte} (hc : LegalCapacity s) (hq : q.length ≤ s.bufBytes)
    (u : Bool) : OutIsUnpadded q s (State.putResult (unpadPermissive q) { s with unwrittenRead := u }) := by
  have hlen := length_unpadPermissive q
  have hl : (unpadPermissive q).length ≤ s.bufBytes := by omega
  have hout := State.toNat_outlen_putResult (s := { s with unwrittenRead := u }) hc hl
  refine ⟨hout.trans hlen, fun i hi => ?_, onlyOut_putResult hc hl u⟩
  rw [hout] at hi
  rw [State.readByte_putResult_out, if_pos hi, unpadPermissive_eq_take, List.getD_eq_getElem?_getD,
    List.getElem?_take_of_lt (by omega), ← List.getD_eq_getElem?_getD]

/-- The end of the commands that remove padding, whatever they add to the record of UnwrittenRead. -/
theorem finishUnpad_removesPadding (w : Word) (pmax : Nat) {q : List Byte} {s : State} (hc : LegalCapacity s)
    (hq : q.length ≤ s.bufBytes) (u : Bool) :
    ∃ t, finishUnpad w pmax q s { s with unwrittenRead := u } = .next t ∧ RemovesPadding w pmax q s t := by
  by_cases hfail : s.strictPad = true ∧ ¬StrictOk pmax q
  · obtain ⟨hs, hbad⟩ := hfail
    refine ⟨_, by rw [finishUnpad, State.unpad_eq_none hs hbad]; rfl, fun hs' => ?_, fun _ hok => absurd hok hbad,
      fun _ _ => recorded_raise _ w s⟩
    rw [hs] at hs'; cases hs'
  · have hok : s.strictPad = true → StrictOk pmax q := fun hs => by_contra fun hbad => hfail ⟨hs, hbad⟩
    have hout := outIsUnpadded_putResult hc hq u
    exact ⟨_, by rw [finishUnpad, State.unpad_eq_some hok], fun _ => hout, fun _ _ => hout,
      fun hs hbad => absurd (hok hs) hbad⟩

theorem execUnpad_live {s : State} (hf : s.faulted = false) (hw : InWritten s) (hb : inLen s ≤ s.bufBytes)
    (h0 : 0 < inLen s) : execUnpad s = finishUnpad (encode .unpad) 255 (inBytes s) s s := by
  rw [inLen] at hb h0
  rw [execUnpad, command_live hf, if_neg (by omega), if_neg (by omega), State.inOperand_of_inWritten hw]

/-- Settles O41: the checks of the lengths pass, and the end is `finishUnpad` on IN[0..INLEN). -/
theorem unpadRemovesPadding : Obligations.UnpadRemovesPadding := by
  intro s hf hc hw hb h0
  obtain ⟨t, ht, hremoves⟩ :=
    finishUnpad_removesPadding (encode .unpad) 255 hc ((length_inBytes s).trans_le hb) s.unwrittenRead
  exact ⟨t, (execUnpad_live hf hw hb h0).trans ht, hremoves⟩

end Sys2Proof.Machine

/-! ### The chaining modes (R200 to R207) -/

namespace Sys2Proof.Machine

open Sys2Proof.Claims

/-! #### The operands and results of the modes as lists of blocks (R200 (a)) -/

/-- The first `n` blocks of an array. -/
def arrayBlocks (s : State) (a : ByteArr) (n : Nat) : List Block := (List.range n).map fun k => blockAt s a (16 * k)

/-- The blocks of the padded input. -/
def paddedBlocks (s : State) : List Block := (List.range (inLen s / 16 + 1)).map (paddedBlock s)

@[simp] theorem length_paddedBlocks (s : State) : (paddedBlocks s).length = inLen s / 16 + 1 := by simp [paddedBlocks]

@[simp] theorem length_arrayBlocks (s : State) (a : ByteArr) (n : Nat) : (arrayBlocks s a n).length = n := by
  simp [arrayBlocks]

theorem byteAt_blockAt (s : State) (a : ByteArr) (off : Nat) {j : Nat} (hj : j < 16) :
    byteAt (blockAt s a off) j = s.readByte a (off + j) := byteAt_blockBuild _ hj

theorem arrayBlocks_congr {s t : State} {a b : ByteArr} {n : Nat}
    (h : ∀ i, i < 16 * n → t.readByte b i = s.readByte a i) : arrayBlocks t b n = arrayBlocks s a n := by
  refine List.map_congr_left fun k hk => block_ext fun j hj => ?_
  have hk' := List.mem_range.mp hk
  rw [byteAt_blockAt _ _ _ hj, byteAt_blockAt _ _ _ hj, h _ (by omega)]

theorem splitBlocks_eq_map_range (x : List Byte) :
    splitBlocks x = (List.range (x.length / 16)).map fun k => blockBuild fun j => x.getD (16 * k + j) 0#8 := by
  refine List.ext_getElem (by simp [splitBlocks]) fun k _ hk => block_ext fun j hj => ?_
  rw [List.getElem_map, List.getElem_range, byteAt_blockBuild _ hj]
  exact byteAt_blocksOf _ x k j (by simpa using hk) hj

theorem splitBlocks_inBytes (s : State) : splitBlocks (inBytes s) = arrayBlocks s .inBuf (inLen s / 16) := by
  rw [splitBlocks_eq_map_range, length_inBytes, arrayBlocks]
  refine List.map_congr_left fun k hk => block_ext fun j hj => ?_
  have hk' := List.mem_range.mp hk
  rw [byteAt_blockBuild _ hj, byteAt_blockAt _ _ _ hj, getD_inBytes s (by omega)]

theorem getD_padBytes_inBytes (s : State) {i : Nat} (hi : i < 16 * (inLen s / 16 + 1)) :
    (padBytes (inBytes s) 16).getD i 0#8 = paddedByte s 16 i := by
  have hlen := length_inBytes s
  rw [paddedByte]
  split
  · next hdata => rw [getD_padBytes_data _ _ (by omega), getD_inBytes s hdata]
  · next hpad =>
    have hmul := padCount_multiple (inLen s) (bs := 16) (by decide)
    have hbyte : 16 - inLen s % 16 < 2 ^ 8 := by omega
    apply BitVec.eq_of_toNat_eq
    rw [toNat_getD_padBytes_pad _ (by decide) (by omega) (by rw [hlen]; omega), hlen, padCount, BitVec.toNat_ofNat,
      Nat.mod_eq_of_lt hbyte]

theorem length_padBytes_inBytes (s : State) : (padBytes (inBytes s) 16).length = 16 * (inLen s / 16 + 1) := by
  rw [length_padBytes, length_inBytes, padCount_multiple _ (by decide)]

theorem splitBlocks_padBytes (s : State) : splitBlocks (padBytes (inBytes s) 16) = paddedBlocks s := by
  rw [splitBlocks_eq_map_range, length_padBytes_inBytes, Nat.mul_div_cancel_left _ (by decide), paddedBlocks]
  refine List.map_congr_left fun k hk => block_ext fun j hj => ?_
  have hk' := List.mem_range.mp hk
  rw [paddedBlock, byteAt_blockBuild _ hj, byteAt_blockBuild _ hj, getD_padBytes_inBytes s (by omega)]

theorem joinBlocks_paddedBlocks (s : State) : joinBlocks (paddedBlocks s) = padBytes (inBytes s) 16 := by
  rw [← splitBlocks_padBytes, joinBlocks_splitBlocks _ (by rw [length_padBytes_inBytes, Nat.mul_mod_right])]

/-- What a mode command puts in OUT is read back block by block. -/
theorem arrayBlocks_putResult (s : State) (bs : List Block) :
    arrayBlocks (s.putResult (joinBlocks bs)) .outBuf bs.length = bs := by
  refine List.ext_getElem (length_arrayBlocks _ _ _) fun k _ hk => block_ext fun j hj => ?_
  simp only [arrayBlocks, List.getElem_map, List.getElem_range]
  rw [byteAt_blockAt _ _ _ hj, State.readByte_putResult_out, if_pos (by rw [length_joinBlocks]; omega),
    getD_joinBlocks bs k j hk hj]

/-! #### The two shapes of mode command, past their checks -/

/-- ECBENC and CBCENC: OUT's blocks are the mode's answer on the padded input. -/
theorem encryptBuffer_completes (w : Word) {f : List Block → List Block} (hf : ∀ l, (f l).length = l.length) {s : State}
    (h : EncryptReady s) :
    ∃ t, encryptBuffer w f s = .next t ∧ t.outlen.toNat = 16 * (inLen s / 16 + 1) ∧
      arrayBlocks t .outBuf (inLen s / 16 + 1) = f (paddedBlocks s) ∧ OnlyOut s t := by
  obtain ⟨hlive, hkey, hc, hw, hroom⟩ := h
  have hmul := padCount_multiple (inLen s) (bs := 16) (by decide)
  have hn : (f (paddedBlocks s)).length = inLen s / 16 + 1 := (hf _).trans (length_paddedBlocks s)
  have hlen : (joinBlocks (f (paddedBlocks s))).length = 16 * (inLen s / 16 + 1) := by rw [length_joinBlocks, hn]
  have hrun : encryptBuffer w f s = .next (s.noteRoundKeys.putResult (joinBlocks (f (paddedBlocks s)))) := by
    rw [inLen] at hroom hmul
    rw [encryptBuffer, command_live hlive, hkey, if_neg (by decide), if_neg (by omega), if_neg (by omega),
      State.inOperand_of_inWritten hw, ← splitBlocks_padBytes]
  refine ⟨_, hrun, ?_, hn ▸ arrayBlocks_putResult _ _, onlyOut_putResult hc (by omega) _⟩
  exact (State.toNat_outlen_putResult (s := s.noteRoundKeys) hc (hlen.trans_le hroom)).trans hlen

/-- ECBDEC and CBCDEC: the mode's answer on IN's blocks goes to padding removal. -/
theorem decryptBuffer_removesPadding (w : Word) {f : List Block → List Block} (hf : ∀ l, (f l).length = l.length)
    {s : State} (h : DecryptReady s) :
    ∃ t, decryptBuffer w f s = .next t ∧
      RemovesPadding w 16 (joinBlocks (f (arrayBlocks s .inBuf (inLen s / 16)))) s t := by
  obtain ⟨hlive, hkey, hc, hw, hb, h0, hm⟩ := h
  have hlen : (joinBlocks (f (arrayBlocks s .inBuf (inLen s / 16)))).length ≤ s.bufBytes := by
    rw [length_joinBlocks, hf, length_arrayBlocks]
    omega
  have hrun : decryptBuffer w f s =
      finishUnpad w 16 (joinBlocks (f (arrayBlocks s .inBuf (inLen s / 16)))) s s.noteRoundKeys := by
    rw [inLen] at hb h0 hm
    rw [decryptBuffer, command_live hlive, hkey, if_neg (by decide), if_neg (by omega), if_neg (by omega),
      if_neg (by omega), State.inOperand_of_inWritten hw, ← splitBlocks_inBytes]
  obtain ⟨t, ht, hremoves⟩ := finishUnpad_removesPadding w 16 hc hlen s.noteRoundKeys.unwrittenRead
  exact ⟨t, hrun.trans ht, hremoves⟩

/-! #### ECB (R201, R202) -/

/-- Settles O44. -/
theorem ecbencEncryptsEachBlock : Obligations.EcbencEncryptsEachBlock := by
  intro s h
  obtain ⟨t, ht, hlen, hblocks, honly⟩ :=
    encryptBuffer_completes (encode .ecbenc) (f := List.map s.encryptBlock) (fun _ => List.length_map _) h
  refine ⟨t, ht, hlen, fun k hk => ?_, honly⟩
  rw [arrayBlocks, paddedBlocks, List.map_map, List.map_inj_left] at hblocks
  exact hblocks k (List.mem_range.mpr (by omega))

theorem joinBlocks_map_range (n : Nat) (g : Nat → Block) :
    joinBlocks ((List.range n).map g) = (List.range n).flatMap fun k => blockBytes (g k) := List.flatMap_map ..

theorem joinBlocks_map_decryptBlock (s : State) :
    joinBlocks ((arrayBlocks s .inBuf (inLen s / 16)).map s.decryptBlock) = ecbPlain s := by
  rw [arrayBlocks, List.map_map, joinBlocks_map_range]
  rfl

/-- Settles O45. -/
theorem ecbdecDecryptsEachBlock : Obligations.EcbdecDecryptsEachBlock := fun s h =>
  joinBlocks_map_decryptBlock s ▸
    decryptBuffer_removesPadding (encode .ecbdec) (f := List.map s.decryptBlock) (fun _ => List.length_map _) h

/-! #### CBC (R203, R204): both directions combine each block with the ciphertext block before it -/

theorem State.ivOperand_eq_ivBlock (s : State) (z : Bool) : s.ivOperand z = ivBlock s z := by
  simp only [State.ivOperand, ivBlock, blockAt, Nat.zero_add]

theorem cbcDecrypt_eq_zipWith (d : Block → Block) (prev : Block) (cs : List Block) :
    cbcDecrypt d prev cs = List.zipWith (fun c p => xorBlock (d c) p) cs (prev :: cs) := by
  induction cs generalizing prev with
  | nil => rfl
  | cons c cs ih => rw [cbcDecrypt, ih, List.zipWith_cons_cons]

theorem cbcEncrypt_eq_zipWith (e : Block → Block) (prev : Block) (ps : List Block) :
    cbcEncrypt e prev ps = List.zipWith (fun p c => e (xorBlock p c)) ps (prev :: cbcEncrypt e prev ps) := by
  induction ps generalizing prev with
  | nil => rfl
  | cons p ps ih => rw [cbcEncrypt, List.zipWith_cons_cons, ← ih]

/-- Index by index, the partner of block 0 is `prev` and that of block `k` is block `k - 1` of the second sequence. -/
theorem zipWith_map_range_cons (F : Block → Block → Block) (g g' : Nat → Block) (prev : Block) (n : Nat) :
    List.zipWith F ((List.range n).map g) (prev :: (List.range n).map g') =
      (List.range n).map fun k => F (g k) (if k = 0 then prev else g' (k - 1)) := by
  refine List.ext_getElem (by simp) fun k _ _ => ?_
  cases k <;> simp

/-- Settles O46: OUT's blocks satisfy the chaining equation of `cbcEncrypt`. -/
theorem cbcencChainsTheCiphertext : Obligations.CbcencChainsTheCiphertext := by
  intro s z h
  obtain ⟨t, ht, hlen, hblocks, honly⟩ := encryptBuffer_completes (encode (.cbcenc z))
    (f := cbcEncrypt s.encryptBlock (s.ivOperand z)) (length_cbcEncrypt _ _) h
  refine ⟨t, ht, hlen, fun k hk => ?_, honly⟩
  have hchain := cbcEncrypt_eq_zipWith s.encryptBlock (s.ivOperand z) (paddedBlocks s)
  rw [← hblocks, arrayBlocks, paddedBlocks, zipWith_map_range_cons, List.map_inj_left,
    State.ivOperand_eq_ivBlock] at hchain
  exact hchain k (List.mem_range.mpr (by omega))

theorem joinBlocks_cbcDecrypt (s : State) (z : Bool) :
    joinBlocks (cbcDecrypt s.decryptBlock (s.ivOperand z) (arrayBlocks s .inBuf (inLen s / 16))) = cbcPlain s z := by
  rw [cbcDecrypt_eq_zipWith, arrayBlocks, zipWith_map_range_cons, joinBlocks_map_range, State.ivOperand_eq_ivBlock]
  rfl

theorem encode_cbcdec (z : Bool) : encode (.cbcdec z) = if z then 0x00000143#32 else 0x00000043#32 := by
  cases z <;> rfl

/-- Settles O47. -/
theorem cbcdecChainsTheCiphertext : Obligations.CbcdecChainsTheCiphertext := fun s z h =>
  encode_cbcdec z ▸ joinBlocks_cbcDecrypt s z ▸
    decryptBuffer_removesPadding (encode (.cbcdec z)) (f := cbcDecrypt s.decryptBlock (s.ivOperand z))
      (length_cbcDecrypt _ _) h

/-! #### When two blocks of OUT are equal (R205) -/

theorem State.encryptBlock_injective (s : State) : Function.Injective s.encryptBlock :=
  Function.LeftInverse.injective (invCipher_cipher s.roundKey s.nr)

/-- Settles O48: each block of OUT is the cipher of its input, and the cipher is injective. -/
theorem equalBlocksUnderEcbAndCbc : Obligations.EqualBlocksUnderEcbAndCbc := by
  intro s z j k h hj hk
  obtain ⟨t, ht, _, hecb, _⟩ := ecbencEncryptsEachBlock s h
  obtain ⟨u, hu, _, hcbc, _⟩ := cbcencChainsTheCiphertext s z h
  refine ⟨⟨t, ht, ?_⟩, ⟨u, hu, ?_⟩⟩
  · rw [hecb j hj, hecb k hk, s.encryptBlock_injective.eq_iff]
  · rw [hcbc j hj, hcbc k hk, s.encryptBlock_injective.eq_iff]

/-! #### Another IV, another ciphertext block (R204, R207) -/

theorem xorBlock_xor_exchange (b c c' : Block) : xorBlock (xorBlock b c) (xorBlock c c') = xorBlock b c' := by
  apply block_ext
  intro i hi
  simp only [byteAt_xorBlock _ _ hi]
  rw [BitVec.xor_assoc, ← BitVec.xor_assoc (byteAt c i), BitVec.xor_self, BitVec.zero_xor]

theorem xorBlock_left_injective (c : Block) : Function.Injective (xorBlock · c) :=
  Function.LeftInverse.injective (g := (xorBlock · c)) fun b => xorBlock_cancel b c

/-- Settles O52: the chaining value reaches the first block alone. -/
theorem cbcIvAffectsOnlyTheFirstBlock : Obligations.CbcIvAffectsOnlyTheFirstBlock := by
  intro d iv iv' cs
  cases cs with
  | nil => exact ⟨rfl, fun _ => rfl⟩
  | cons c cs =>
    rw [cbcDecrypt, cbcDecrypt, List.getElem?_cons_zero, List.getElem?_cons_zero, Option.map_some,
      xorBlock_xor_exchange]
    exact ⟨rfl, fun k => by rw [List.getElem?_cons_succ, List.getElem?_cons_succ]⟩

/-- Replacing block `i` changes its own decryption and is, for the blocks after it, another chaining value. -/
theorem cbcDecrypt_set {d : Block → Block} (hd : Function.Injective d) (c' : Block) (cs : List Block) :
    ∀ (prev : Block) (i : Nat) (hi : i < cs.length), cs[i] ≠ c' →
      (cbcDecrypt d prev (cs.set i c'))[i]? ≠ (cbcDecrypt d prev cs)[i]? ∧
      (cbcDecrypt d prev (cs.set i c'))[i + 1]? =
        (cbcDecrypt d prev cs)[i + 1]?.map (fun b => xorBlock b (xorBlock cs[i] c')) ∧
      ∀ k, k ≠ i → k ≠ i + 1 → (cbcDecrypt d prev (cs.set i c'))[k]? = (cbcDecrypt d prev cs)[k]? := by
  induction cs with
  | nil => exact fun _ i hi => absurd hi (Nat.not_lt_zero i)
  | cons c cs ih =>
    intro prev i hi hne
    cases i with
    | zero =>
      obtain ⟨hfirst, hrest⟩ := cbcIvAffectsOnlyTheFirstBlock d c c' cs
      refine ⟨fun heq => hne ?_, hfirst, fun k h0 h1 => ?_⟩
      · exact (hd (xorBlock_left_injective prev (Option.some.inj heq))).symm
      · obtain ⟨k, rfl⟩ : ∃ m, k = m + 2 := ⟨k - 2, by omega⟩
        exact hrest k
    | succ i =>
      obtain ⟨hself, hnext, hother⟩ := ih c i (Nat.lt_of_succ_lt_succ hi) hne
      refine ⟨hself, hnext, fun k h0 h1 => ?_⟩
      cases k with
      | zero => rfl
      | succ k => exact hother k (by omega) (by omega)

/-- Settles O51. -/
theorem cbcErrorPropagation : Obligations.CbcErrorPropagation := fun rk nr prev c' cs i hi hne =>
  ⟨by rw [length_cbcDecrypt, length_cbcDecrypt, List.length_set],
    cbcDecrypt_set (Function.LeftInverse.injective (cipher_invCipher rk nr)) c' cs prev i hi hne⟩

/-! #### The round trips (R206) -/

/-- The state in which the host hands OUT back: another IN, INLEN = OUTLEN, another CTRL. -/
def handedBack (t : State) (m : Memory) (ctrl' : Word) : State := { t with inBuf := m, inlen := t.outlen, ctrl := ctrl' }

theorem readByte_handedBack (t : State) (m : Memory) (ctrl' : Word) {a : ByteArr} (i : Nat) (ha : a ≠ .inBuf) :
    (handedBack t m ctrl').readByte a i = t.readByte a i := by
  cases a with
  | inBuf => exact absurd rfl ha
  | _ => rfl

theorem readByte_handedBack_in {t : State} {m : Memory} (ctrl' : Word) {i : Nat} {b : Byte} (h : m.read i = some b) :
    (handedBack t m ctrl').written .inBuf i = true ∧ (handedBack t m ctrl').readByte .inBuf i = b := by
  have hw : (handedBack t m ctrl').written .inBuf i = true := by simp [handedBack, State.written, h]
  exact ⟨hw, by rw [State.readByte_written hw]; simp [handedBack, State.held, h]⟩

/-- The decrypting command finds the schedule, the IV and STATUS that the encrypting one had. -/
theorem context_handedBack {s t : State} (h : OnlyOut s t) (m : Memory) (ctrl' : Word) :
    (handedBack t m ctrl').roundKey = s.roundKey ∧ (handedBack t m ctrl').iv = s.iv ∧
      (handedBack t m ctrl').status = s.status := by
  obtain ⟨hframe, _, _, hstatus, _, hkept⟩ := h
  refine ⟨funext fun r => block_ext fun i hi => ?_, by rw [handedBack, hframe], hstatus⟩
  rw [State.byteAt_roundKey _ r hi, State.byteAt_roundKey _ r hi, readByte_handedBack _ _ _ _ (by decide),
    hkept .rk _ (by decide)]

theorem decryptReady_handedBack {s t : State} {m : Memory} (h : EncryptReady s)
    (hlen : t.outlen.toNat = 16 * (inLen s / 16 + 1)) (honly : OnlyOut s t)
    (hm : ∀ i, i < t.outlen.toNat → m.read i = some (t.readByte .outBuf i)) (ctrl' : Word) :
    DecryptReady (handedBack t m ctrl') := by
  obtain ⟨hlive, hkey, hc, _, hroom⟩ := h
  obtain ⟨hframe, _, _, hstatus, _, _⟩ := honly
  obtain ⟨hlive', hkey', _⟩ := State.flags_congr hstatus
  have hbuf : (handedBack t m ctrl').bufBytes = s.bufBytes := by rw [handedBack, hframe]
  have hin : inLen (handedBack t m ctrl') = 16 * (inLen s / 16 + 1) := hlen
  refine ⟨hlive'.trans hlive, hkey'.trans hkey, ?_, fun i hi => (readByte_handedBack_in ctrl' (hm i hi)).1, ?_,
    by omega, by omega⟩
  · rwa [LegalCapacity, hbuf]
  · rwa [hin, hbuf]

/-- Padding that passes the strict check is removed under either value of CTRL.STRICT_PAD. -/
theorem outIsUnpadded_of_strictOk {w : Word} {pmax : Nat} {q : List Byte} {s t : State}
    (h : RemovesPadding w pmax q s t) (hok : StrictOk pmax q) : OutIsUnpadded q s t := by
  obtain ⟨hpermissive, hstrict, _⟩ := h
  cases hs : s.strictPad with
  | false => exact hpermissive hs
  | true => exact hstrict hs hok

/-- Removing the padding of the padded input gives the input. -/
theorem outIsInput_of_outIsUnpadded {s t u : State} (h : OutIsUnpadded (padBytes (inBytes s) 16) t u) :
    u.outlen = s.inlen ∧ ∀ i, i < inLen s → u.readByte .outBuf i = s.readByte .inBuf i := by
  obtain ⟨hlen, hbytes, _⟩ := h
  rw [lastByte_padBytes _ (by decide) (by decide), length_padBytes, Nat.add_sub_cancel, length_inBytes] at hlen
  refine ⟨BitVec.eq_of_toNat_eq hlen, fun i hi => ?_⟩
  rw [hbytes i (by omega), getD_padBytes_data _ _ (by rwa [length_inBytes]), getD_inBytes s hi]

/-- A decrypting mode `g` that undoes the encrypting mode `f` wherever RK, IV and STATUS stand as before gives the input
back from what `f` left in OUT. -/
theorem decryptBuffer_undoes_encryptBuffer (w w' : Word) {f : List Block → List Block}
    {g : State → List Block → List Block} (hf : ∀ l, (f l).length = l.length) (hg : ∀ t l, (g t l).length = l.length)
    {s : State} (hinv : ∀ t : State, t.roundKey = s.roundKey → t.iv = s.iv → t.status = s.status →
      ∀ l, g t (f l) = l)
    (h : EncryptReady s) (m : Memory) (ctrl' : Word) :
    ∃ t, encryptBuffer w f s = .next t ∧
      ((∀ i, i < t.outlen.toNat → m.read i = some (t.readByte .outBuf i)) →
        ∃ u, decryptBuffer w' (g (handedBack t m ctrl')) (handedBack t m ctrl') = .next u ∧
          u.outlen = s.inlen ∧ ∀ i, i < inLen s → u.readByte .outBuf i = s.readByte .inBuf i) := by
  obtain ⟨t, ht, hlen, hblocks, honly⟩ := encryptBuffer_completes w hf h
  refine ⟨t, ht, fun hm => ?_⟩
  obtain ⟨hrk, hiv, hstatus⟩ := context_handedBack honly m ctrl'
  obtain ⟨u, hu, hremoves⟩ :=
    decryptBuffer_removesPadding w' (hg (handedBack t m ctrl')) (decryptReady_handedBack h hlen honly hm ctrl')
  have hin : inLen (handedBack t m ctrl') = 16 * (inLen s / 16 + 1) := hlen
  have hblocks' : arrayBlocks (handedBack t m ctrl') .inBuf (inLen s / 16 + 1) = f (paddedBlocks s) :=
    hblocks ▸ arrayBlocks_congr fun i hi => (readByte_handedBack_in ctrl' (hm i (hlen ▸ hi))).2
  rw [hin, Nat.mul_div_cancel_left _ (by decide), hblocks', hinv _ hrk hiv hstatus, joinBlocks_paddedBlocks] at hremoves
  exact ⟨u, hu, outIsInput_of_outIsUnpadded
    (outIsUnpadded_of_strictOk hremoves (strictOk_padBytes _ (by decide) (by decide) (by decide)))⟩

/-- Where RK and STATUS stand as before, a state's decryption undoes the encryption before. -/
theorem State.decryptBlock_encryptBlock {s t : State} (hrk : t.roundKey = s.roundKey) (hstatus : t.status = s.status)
    (b : Block) : t.decryptBlock (s.encryptBlock b) = b := by
  obtain ⟨_, hdec⟩ := State.blockCipher_congr hrk hstatus
  rw [hdec]
  exact invCipher_cipher s.roundKey s.nr b

/-- Settles O49. -/
theorem ecbRoundTrip : Obligations.EcbRoundTrip := fun s m ctrl' h =>
  decryptBuffer_undoes_encryptBuffer (encode .ecbenc) (encode .ecbdec) (f := List.map s.encryptBlock)
    (g := fun t => List.map t.decryptBlock) (fun _ => List.length_map _) (fun _ _ => List.length_map _)
    (fun _ hrk _ hstatus l => by
      rw [List.map_map, Function.LeftInverse.comp_eq_id (State.decryptBlock_encryptBlock hrk hstatus), List.map_id])
    h m ctrl'

theorem cbcDecrypt_cbcEncrypt {d e : Block → Block} (h : ∀ b, d (e b) = b) (prev : Block) (ps : List Block) :
    cbcDecrypt d prev (cbcEncrypt e prev ps) = ps := by
  induction ps generalizing prev with
  | nil => rfl
  | cons p ps ih => rw [cbcEncrypt, cbcDecrypt, ih, h, xorBlock_cancel]

theorem State.ivOperand_congr {s t : State} (h : t.iv = s.iv) (z : Bool) : t.ivOperand z = s.ivOperand z := by
  simp only [State.ivOperand, State.readByte_iv, h]

/-- Settles O50. -/
theorem cbcRoundTrip : Obligations.CbcRoundTrip := fun s z m ctrl' h =>
  decryptBuffer_undoes_encryptBuffer (encode (.cbcenc z)) (encode (.cbcdec z))
    (f := cbcEncrypt s.encryptBlock (s.ivOperand z)) (g := fun t => cbcDecrypt t.decryptBlock (t.ivOperand z))
    (length_cbcEncrypt _ _) (fun _ => length_cbcDecrypt _ _)
    (fun _ hrk hiv hstatus l => by
      rw [State.ivOperand_congr hiv, cbcDecrypt_cbcEncrypt (State.decryptBlock_encryptBlock hrk hstatus)])
    h m ctrl'

end Sys2Proof.Machine

/-! ### The end of a command past its checks: order 8 of R233, and completion -/

namespace Sys2Proof.Machine

open Sys2Proof.Claims

theorem readsIn_of_unpads {i : Instr} (h : unpads i = true) : readsIn i = true := by
  cases i <;> simp_all [unpads, readsIn]

theorem needsSchedule_of_decryptsBuffer {i : Instr} (h : decryptsBuffer i = true) : needsSchedule i = true := by
  cases i <;> simp_all [decryptsBuffer, needsSchedule]

/-- What orders 4 to 6 leave a command that removes padding, and order 2 with them the decrypting modes. -/
theorem lengths_of_noneHolds {i : Instr} {s : State} (hn : NoneHolds (conditions i s)) (hu : unpads i = true) :
    inLen s ≤ s.bufBytes ∧ 0 < inLen s ∧ (decryptsBuffer i = true → s.keyValid = true ∧ inLen s % 16 = 0) := by
  obtain ⟨hkey, _, _, _, hcap, hempty, hpartial, _⟩ := hn
  have hpos : inLen s ≠ 0 := fun h => hempty ⟨hu, h⟩
  refine ⟨Nat.le_of_not_lt fun h => hcap ⟨readsIn_of_unpads hu, h⟩, Nat.pos_of_ne_zero hpos, fun hd => ⟨?_, ?_⟩⟩
  · exact Bool.eq_true_of_not_eq_false fun h => hkey ⟨needsSchedule_of_decryptsBuffer hd, h⟩
  · exact not_not.mp fun h => hpartial ⟨hd, h⟩

theorem decryptBuffer_live (w : Word) (f : List Block → List Block) {s : State} (hf : s.faulted = false)
    (hkey : s.keyValid = true) (hw : InWritten s) (hb : inLen s ≤ s.bufBytes) (h0 : 0 < inLen s)
    (hm : inLen s % 16 = 0) :
    decryptBuffer w f s =
      finishUnpad w 16 (joinBlocks (f (arrayBlocks s .inBuf (inLen s / 16)))) s s.noteRoundKeys := by
  rw [inLen] at hb h0 hm
  rw [decryptBuffer, command_live hf, hkey, if_neg (by decide), if_neg (by omega), if_neg (by omega),
    if_neg (by omega), State.inOperand_of_inWritten hw, ← splitBlocks_inBytes]

section FinishUnpad
variable {w : Word} {pmax : Nat} {q : List Byte} {s noted : State}

theorem finishUnpad_of_ok (h : s.strictPad = true → StrictOk pmax q) :
    finishUnpad w pmax q s noted = .next (noted.putResult (unpadPermissive q)) := by
  simp only [finishUnpad, State.unpad_eq_some h]

theorem finishUnpad_of_bad (hs : s.strictPad = true) (h : ¬StrictOk pmax q) :
    finishUnpad w pmax q s noted = .next (s.raise .paddingInvalid w) := by
  simp only [finishUnpad, State.unpad_eq_none hs h, fail]

end FinishUnpad

@[simp] theorem State.faulted_noteRoundKeys (s : State) : s.noteRoundKeys.faulted = s.faulted := rfl

section PastChecks
variable {i : Instr} {s : State} (hf : s.faulted = false)
include hf

/-- Past the checks a command that removes padding ends in the removal from its data, whatever it adds to the record of
UnwrittenRead. -/
theorem exec_eq_finishUnpad (hn : NoneHolds (conditions i s)) (hw : InWritten s) (hu : unpads i = true) :
    ∃ u, exec i s = finishUnpad (encode i) (largestPad i) (checkedData s i) s { s with unwrittenRead := u } := by
  obtain ⟨hb, h0, hdec⟩ := lengths_of_noneHolds hn hu
  cases i
  case unpad => exact ⟨s.unwrittenRead, execUnpad_live hf hw hb h0⟩
  case ecbdec =>
    obtain ⟨hkey, hm⟩ := hdec rfl
    refine ⟨s.noteRoundKeys.unwrittenRead, (decryptBuffer_live _ _ hf hkey hw hb h0 hm).trans ?_⟩
    rw [joinBlocks_map_decryptBlock]
    rfl
  case cbcdec z =>
    obtain ⟨hkey, hm⟩ := hdec rfl
    refine ⟨s.noteRoundKeys.unwrittenRead, (decryptBuffer_live _ _ hf hkey hw hb h0 hm).trans ?_⟩
    rw [joinBlocks_cbcDecrypt]
    rfl
  all_goals cases hu

/-- A command that does not remove padding completes or records an error of another order: each shape names its own. -/
theorem exec_record_of_not_unpads {t : State} (hu : unpads i = false) (h : exec i s = .next t) :
    t.faulted = false ∨ t.err ≠ ErrCode.code .paddingInvalid := by
  have hraise {e : ErrCode} (w : Word) (he : e.code ≠ ErrCode.code .paddingInvalid) :
      (s.raise e w).faulted = false ∨ (s.raise e w).err ≠ ErrCode.code .paddingInvalid :=
    .inr ((State.err_raise e w s).trans_ne he)
  cases i <;> simp only [exec] at h
  case unpad | ecbdec | cbcdec => cases hu
  case keyexp =>
    rcases execKeyexp_cases h with ⟨_, rfl⟩ | ⟨_, _, rfl⟩ | ⟨_, cfg, _, rfl⟩
    · exact .inl hf
    · exact hraise _ (by decide)
    · exact .inl (by simp [hf])
  case addrk r =>
    rcases execAddrk_cases h with ⟨_, rfl⟩ | ⟨_, _, rfl⟩ | ⟨_, _, _, rfl⟩ | ⟨_, _, _, rfl⟩
    · exact .inl hf
    · exact hraise _ (by decide)
    · exact hraise _ (by decide)
    · exact .inl (by simp [hf])
  case encblk | decblk =>
    rcases blockCommand_cases h with ⟨_, rfl⟩ | ⟨_, _, rfl⟩ | ⟨_, _, rfl⟩
    · exact .inl hf
    · exact hraise _ (by decide)
    · exact .inl (by simp [hf])
  case pad bs =>
    rcases execPad_cases h with ⟨_, rfl⟩ | ⟨_, e, rfl, rfl | rfl⟩ | ⟨_, _, d, _, _, rfl⟩
    · exact .inl hf
    · exact hraise _ (by decide)
    · exact hraise _ (by decide)
    · exact .inl (by simp [hf])
  case ecbenc | cbcenc =>
    rcases encryptBuffer_cases h with ⟨_, rfl⟩ | ⟨_, e, rfl, rfl | rfl⟩ | ⟨_, _, d, _, _, rfl⟩
    · exact .inl hf
    · exact hraise _ (by decide)
    · exact hraise _ (by decide)
    · exact .inl (by simp [hf])
  all_goals
    rcases roundCommand_cases h with ⟨_, rfl⟩ | ⟨_, rfl⟩
    · exact .inl hf
    · exact .inl (by simp [hf])

/-- Order 8: the strict check fails. -/
theorem exec_paddingFails (hn : NoneHolds (conditions i s)) (hw : InWritten s) (hp : PaddingFails i s) :
    exec i s = .next (s.raise .paddingInvalid (encode i)) := by
  obtain ⟨hu, hstrict, hbad⟩ := hp
  obtain ⟨u, hexec⟩ := exec_eq_finishUnpad hf hn hw hu
  exact hexec.trans (finishUnpad_of_bad hstrict hbad)

/-- With no condition of R233 holding the command completes. -/
theorem exec_completes (hn : NoneHolds (conditions i s)) (hw : readsIn i = true → InWritten s)
    (hp : ¬PaddingFails i s) : ∃ t, exec i s = .next t ∧ t.faulted = false := by
  cases hu : unpads i with
  | true =>
    have hok : s.strictPad = true → StrictOk (largestPad i) (checkedData s i) :=
      fun hs => by_contra fun hbad => hp ⟨hu, hs, hbad⟩
    obtain ⟨u, hexec⟩ := exec_eq_finishUnpad hf hn (hw (readsIn_of_unpads hu)) hu
    exact ⟨_, hexec.trans (finishUnpad_of_ok hok), hf⟩
  | false =>
    obtain ⟨t, hexec, ht | rfl⟩ := exec_answers_next hf hn hw
    · exact ⟨t, hexec, ht⟩
    · have hrecord := exec_record_of_not_unpads hf hu hexec
      simp at hrecord

end PastChecks

/-! ### A write of CMD (R231, R233) -/

theorem paddingFails_taken (i : Instr) (rest : List HostOp) (s : State) :
    PaddingFails i (taken rest s) = PaddingFails i s := by cases i <;> rfl

/-- Settles O8: orders 0 and 1 are the issue of the word, orders 2 to 7 the conditions every command checks, order 8 the
end of the commands that remove padding. -/
theorem faultPriorityOrder : Obligations.FaultPriorityOrder := by
  intro s w rest hops
  have hstep : step s = issueCommand exec w (taken rest s) := stepWith_cmd hops
  rw [hstep]
  refine ⟨fun hf => issueCommand_faulted (s := taken rest s) hf, fun hf hd => ?_, fun hf i hd => ?_⟩
  · exact ⟨_, issueCommand_illegal (s := taken rest s) hf hd, recorded_raise _ _ _⟩
  have hlive : (taken rest s).faulted = false := hf
  obtain ⟨rfl, _⟩ := encodeInvertsDecode w i hd
  rw [issueCommand_decoded hlive hd]
  refine ⟨fun e he => ?_, fun hn hr a ha hnot hbelow => ?_, fun hn hw hp => ?_, fun hn hw hp => ?_⟩
  · exact ⟨_, (exec_guarded hlive i).1 e he, recorded_raise _ _ _⟩
  · have hw : ¬InWritten (taken rest s) := fun h => absurd (h a ha) (by simp [hnot])
    obtain ⟨b, hb, hexec⟩ := exec_stops_at_unwritten hlive hn hr hw
    have hab : (taken rest s).inOperand = .error a := (State.inOperand_error_iff _ a).mpr ⟨ha, hnot, hbelow⟩
    rw [hab] at hb
    cases hb
    exact hexec
  · exact ⟨_, exec_paddingFails hlive hn hw (paddingFails_taken i rest s ▸ hp), recorded_raise _ _ _⟩
  · obtain ⟨t, hexec, ht⟩ := exec_completes hlive hn hw (paddingFails_taken i rest s ▸ hp)
    obtain ⟨hcmd, herr, _⟩ := exec_keeps_record (ht.trans hlive.symm) hexec
    exact ⟨t, hexec, ht, hcmd, herr⟩

/-- Settles O9: a write of CMD ends in a fault only by the fault entry, for an illegal word or among a command's
answers. -/
theorem faultEntryWritesOnlyTheRecord : Obligations.FaultEntryWritesOnlyTheRecord := by
  intro s t w rest hops hf h ht
  have hlive : (taken rest s).faulted = false := hf
  rw [show step s = _ from stepWith_cmd hops] at h
  cases hd : decode w with
  | none =>
    rw [issueCommand_illegal hlive hd] at h
    cases h
    exact ⟨_, by decide, recorded_raise _ _ _⟩
  | some i =>
    rw [issueCommand_decoded hlive hd] at h
    obtain ⟨rfl, _⟩ := encodeInvertsDecode w i hd
    cases exec_answer h with
    | fault e he => exact ⟨e, he, recorded_raise e _ _⟩
    | ignored h' => rw [hlive] at ht; cases ht
    | schedule => rw [State.faulted_putSchedule] at ht; exact absurd (hlive.symm.trans ht) (by decide)
    | state | out => exact absurd (hlive.symm.trans ht) (by decide)

/-- Settles O7. -/
theorem idleCoreHoldsItsState : Obligations.IdleCoreHoldsItsState := by
  intro s hops
  rw [step, stepWith, hops]

/-- Settles O11, the ten codes evaluated. -/
theorem errorCodesAreTheTable : Obligations.ErrorCodesAreTheTable := by
  unfold Obligations.ErrorCodesAreTheTable
  decide

end Sys2Proof.Machine
